-- ==== Sys2Proof/Word.lean ====
section
/-! DEFINITION. The word types of the CRC-16 frame engine (rule R6: a byte is 8 bits, the CRC is 16 bits, mission elapsed
time is 32 bits). Every value is unsigned (rule R7). -/

namespace Sys2Proof

/-- One byte of the inbound stream, of the scratch buffer or of a packet (rule R6). -/
abbrev Byte := BitVec 8

/-- A 16-bit value: the CRC, a header word, a length field, an operation word (rules R6, R82, R96). -/
abbrev Word := BitVec 16

/-- A 32-bit value: mission time, the sync window, the status-interval counter (rules R24, R27). -/
abbrev Long := BitVec 32

end Sys2Proof
end

