-- ==== Sys2Proof/Config.lean ====
section
/-! DEFINITION. What is fixed for a run: the parameters of rule R4 (`Config`, with the defaults the spec chooses), the
constants the source itself gives (normative values of rule R4), the constraints of rule R5, and the one free value of the
model, which has no body. -/

namespace Sys2Proof

/-- The parameters that rule R4 and item I1 of 93_implementation_defined.md leave open: "The model takes the parameters
below as arguments". The machine holds one `Config` in its state and no operation writes it (rule R283, item 1). -/
structure Config where
  /-- `ITF_LEN_MIN`: least accepted 13-bit frame length L (D4). -/
  itfLenMin : Nat
  /-- `ITF_LEN_MAX`: greatest accepted L (D4). -/
  itfLenMax : Nat
  /-- `MAX_PACKET_SIZE`: greatest frame position before an overflow alarm (D4). -/
  maxPacketSize : Nat
  /-- `CMD_MARKER`: the command sub-packet header word (D6). -/
  cmdMarker : Word
  /-- `TIME_MARKER`: the timestamp sub-packet header word (D6). -/
  timeMarker : Word
  /-- `TIME_LEN_EXPECTED`: required declared length of the timestamp sub-packet (D8). -/
  timeLenExpected : Word
  /-- `MIN_CMD`: least accepted declared command length (D10). -/
  minCmd : Nat
  /-- `MAX_CMD`: greatest accepted declared command length (D10). -/
  maxCmd : Nat
  /-- `MAX_CMDS`: command records a frame may hold. -/
  maxCmds : Nat
  /-- `SCRATCH_SIZE`: bytes in the command scratch buffer (D12). -/
  scratchSize : Nat
  /-- `STATUS_INTERVAL`: N, time advances between automatic Status packets, 0 for none (rule R28, D15). -/
  statusInterval : Long
  /-- `EXCISE_CLEARS_PRED_COUNT`: whether excising command k clears record k-1's argument count (D11). -/
  exciseClearsPredCount : Bool
deriving DecidableEq, Repr

/-- The defaults of rule R4. `STATUS_INTERVAL` has no default in the source; 0 here is a DESIGN CHOICE (log entry 2). -/
def Config.default : Config where
  itfLenMin := 14
  itfLenMax := 264
  maxPacketSize := 270
  cmdMarker := 0x1B00
  timeMarker := 0x1B10
  timeLenExpected := 35
  minCmd := 4
  maxCmd := 14
  maxCmds := 10
  scratchSize := 110
  statusInterval := 0
  exciseClearsPredCount := true

/-- `CRC_POLY` (rule R4). -/
def crcPoly : Word := 0x1021

/-- `CRC_SEED`, the seed of a fresh CRC (rules R4, R123). -/
def crcSeed : Word := 0xFFFF

/-- The sync marker FE FA 30 C8 as the 32-bit value of rule R64. -/
def syncMarker : Long := 0xFEFA30C8

/-- The sync marker as the bytes that open every packet (rule R87, bytes 0..3). -/
def syncBytes : List Byte := [0xFE, 0xFA, 0x30, 0xC8]

/-- `MAX_ARGS`: greatest number of argument bytes in a command (rule R4). -/
def maxArgs : Nat := 10

/-- `STATUS_TOTAL`: Status packet size, CRC included, and the size of the outbound buffer (rules R4, R30). -/
def statusTotal : Nat := 140

/-- `ALARM_TOTAL`: Alarm packet size, CRC included (rule R4). -/
def alarmTotal : Nat := 22

/-- `APID_STATUS` (rules R4, R92). -/
def apidStatus : BitVec 11 := 0x305

/-- `APID_ECHO` (rules R4, R92). -/
def apidEcho : BitVec 11 := 0x301

/-- `APID_ALARM` (rules R4, R92). -/
def apidAlarm : BitVec 11 := 0x302

/-- The constraints of rule R5: "The parameters must satisfy these constraints". -/
abbrev Config.Legal (c : Config) : Prop :=
  4 ≤ c.minCmd ∧ c.minCmd ≤ c.maxCmd ∧ c.maxCmd ≤ maxArgs + 4 ∧ 1 ≤ c.maxCmds ∧ 1 ≤ c.scratchSize ∧
    1 ≤ c.itfLenMin ∧ c.itfLenMin ≤ c.itfLenMax ∧ c.itfLenMax ≤ 8191 ∧ c.cmdMarker ≠ c.timeMarker

/-- FREE VALUE (log entry 7): byte `i` of the outbound buffer after the `n`th power-on reset. Rule R281 gives `outbuf` as
"unspecified; never read before it is written" there, and item I8 as `any value`; nothing is known of it here. -/
opaque Config.freeOutbufByte (n i : Nat) : Byte

end Sys2Proof
end

