-- ==== Sys2Proof/Syntax.lean ====
section
/-! DEFINITION. The operations of the block, one constructor of `Instr` per row of spec/opcode_table.json (rule R96), the
names their operands use, and the form in which an operation arrives: a 16-bit operation word with its operands beside it. -/

namespace Sys2Proof

/-- The receiver's control state (rule R23), in the spec's order. -/
inductive RxState where
  | idle
  | length
  | timeStart
  | time
  | cmdStart
  | cmd
deriving DecidableEq, Repr

/-- The alarm codes of rule R91. Codes 0 and 6..255 are never emitted, so they have no constructor. -/
inductive AlarmCode where
  /-- `ITF_LENGTH`, 1. -/
  | itfLength
  /-- `ITF_CHECKSUM`, 2. -/
  | itfChecksum
  /-- `CCSDS_FORMAT`, 3. -/
  | ccsdsFormat
  /-- `CCSDS_APID`, 4. -/
  | ccsdsApid
  /-- `CCSDS_LENGTH`, 5. -/
  | ccsdsLength
deriving DecidableEq, Repr

/-- The operation set of the block (rule R96), one constructor per row of spec/opcode_table.json. -/
inductive Instr where
  /-- RESET (rule R280): power-on reset. -/
  | reset
  /-- RXBYTE.IDLE (rule R143): byte `b` in IDLE. -/
  | rxByteIdle (b : Byte)
  /-- RXBYTE.LENGTH (rules R144, R145). -/
  | rxByteLength (b : Byte)
  /-- RXBYTE.TIME_START (rules R146, R147). -/
  | rxByteTimeStart (b : Byte)
  /-- RXBYTE.TIME (rules R148, R149, R150). -/
  | rxByteTime (b : Byte)
  /-- RXBYTE.CMD_START (rule R151). -/
  | rxByteCmdStart (b : Byte)
  /-- RXBYTE.CMD (rules R152, R155, R156, R157). -/
  | rxByteCmd (b : Byte)
  /-- BUILDTABLE (rule R120). -/
  | buildTable
  /-- CRCUPDATE (rule R121): operands `c` and `b` beside the word. -/
  | crcUpdate (c : Word) (b : Byte)
  /-- SEQADVANCE (rule R200). -/
  | seqAdvance
  /-- SEQRESET (rule R201). -/
  | seqReset
  /-- HBTOGGLE (rule R202). -/
  | hbToggle
  /-- PWRTOGGLE (rule R203). -/
  | pwrToggle
  /-- METADVANCE (rules R204, R205). -/
  | metAdvance
  /-- DISPATCH (rule R220). -/
  | dispatch
  /-- SENDSTATUS (rule R229). -/
  | sendStatus
  /-- SENDECHO (rule R230): opcode, argument bytes and result byte beside the word. -/
  | sendEcho (opcode : Byte) (args : List Byte) (result : Byte)
  /-- SENDALARM (rule R233). -/
  | sendAlarm (code : AlarmCode)
  /-- RXRESET (rule R140). -/
  | rxReset
  /-- CRCRESIDUECHECK (rule R122): operand `c` beside the word. -/
  | crcResidueCheck (c : Word)
deriving DecidableEq, Repr

/-- The operands that "travel beside the word, not in it" (rule R96 and vector V28). DESIGN CHOICE (log entry 4): the spec
gives them no bits, so they are typed values here and no byte order is invented for them. -/
inductive Beside where
  /-- No operand beside the word. -/
  | nothing
  /-- The operand `crc16` of CRCRESIDUECHECK. -/
  | crc (c : Word)
  /-- The operands `crc16` and `b` of CRCUPDATE. -/
  | crcByte (c : Word) (b : Byte)
  /-- The operands of SENDECHO. -/
  | echo (opcode : Byte) (args : List Byte) (result : Byte)
deriving DecidableEq, Repr

/-- An operation as it is given to the decoder: its 16-bit operation word and the operands beside it (rule R96). -/
structure Operation where
  word : Word
  beside : Beside
deriving DecidableEq, Repr

end Sys2Proof
end

