-- ==== Sys2Proof/WellFormed.lean ====
section
/-! DEFINITION. Which terms of `Instr` are operations of the block. The types carry every operand range but one: rule R230
bounds the number of argument bytes of an Echo by `MAX_ARGS`. -/

namespace Sys2Proof

/-- An Echo carries n argument bytes with 0 ≤ n ≤ 10 (rule R230). -/
abbrev echoArgsOk (args : List Byte) : Prop := args.length ≤ maxArgs

/-- The operand ranges of rule R96's operations. -/
def Instr.WellFormed : Instr → Bool
  | .sendEcho _ args _ => decide (echoArgsOk args)
  | .reset | .rxByteIdle _ | .rxByteLength _ | .rxByteTimeStart _ | .rxByteTime _ | .rxByteCmdStart _ | .rxByteCmd _ => true
  | .buildTable | .crcUpdate _ _ | .crcResidueCheck _ | .rxReset | .dispatch | .sendStatus | .sendAlarm _ => true
  | .seqAdvance | .seqReset | .hbToggle | .pwrToggle | .metAdvance => true

end Sys2Proof
end

