-- ==== Sys2Proof/Decode.lean ====
section
/-! DEFINITION. The decoder of operation words (rules R96, R97), total, refusing each reserved word by name, and after it
the encoder, written from the same table. Bit 0 is the least significant bit (rule R7). -/

namespace Sys2Proof

/-- Why a word is no operation: the reserved classes of rule R97, and the two ways in which operands beside the word may
not fit it. -/
inductive DecodeError where
  /-- "bit 11 = 1". -/
  | bit11Set
  /-- "selector 0xF". -/
  | reservedSelector
  /-- "RxByte with `[10:8]` = 6 or 7". -/
  | reservedRxState
  /-- "a nonzero `[10:8]` on any operation other than RxByte". -/
  | stateFieldNotZero
  /-- "SendAlarm with `[7:0]` outside 1..5". -/
  | alarmCodeOutOfRange
  /-- "nonzero data bits on an operation that has no data operand". -/
  | dataBitsNotZero
  /-- The operands beside the word are not those the operation takes (log entry 4). -/
  | besideMismatch
  /-- SENDECHO with more than `MAX_ARGS` argument bytes (rule R230). -/
  | tooManyArgs
deriving DecidableEq, Repr

/-- `[15:12]`, the selector (rule R96). -/
def selectorField (w : Word) : BitVec 4 := w.extractLsb' 12 4

/-- `[11]`, always 0 (rule R96). -/
def bit11 (w : Word) : Bool := w.getLsbD 11

/-- `[10:8]`, `rx_state` for RxByte (rule R96). -/
def stateField (w : Word) : BitVec 3 := w.extractLsb' 8 3

/-- `[7:0]`, the data byte or the alarm code (rule R96). -/
def dataField (w : Word) : Byte := w.extractLsb' 0 8

/-- The code of a receiver state (rule R23). -/
def RxState.code : RxState → BitVec 3
  | .idle => 0
  | .length => 1
  | .timeStart => 2
  | .time => 3
  | .cmdStart => 4
  | .cmd => 5

/-- The receiver state a code stands for; 6 and 7 are reserved (rules R23, R97). -/
def rxStateOfCode (c : BitVec 3) : Option RxState :=
  match c.toNat with
  | 0 => some .idle
  | 1 => some .length
  | 2 => some .timeStart
  | 3 => some .time
  | 4 => some .cmdStart
  | 5 => some .cmd
  | _ => none

/-- The numeric alarm code (rule R91). -/
def AlarmCode.code : AlarmCode → Byte
  | .itfLength => 1
  | .itfChecksum => 2
  | .ccsdsFormat => 3
  | .ccsdsApid => 4
  | .ccsdsLength => 5

/-- The alarm a code stands for; 0 and 6..255 are never emitted (rule R91). -/
def alarmOfCode (c : Byte) : Option AlarmCode :=
  match c.toNat with
  | 1 => some .itfLength
  | 2 => some .itfChecksum
  | 3 => some .ccsdsFormat
  | 4 => some .ccsdsApid
  | 5 => some .ccsdsLength
  | _ => none

/-- RXBYTE in the state `st` (the six RxByte rows of rule R96). -/
def rxByteInstr (st : RxState) (b : Byte) : Instr :=
  match st with
  | .idle => .rxByteIdle b
  | .length => .rxByteLength b
  | .timeStart => .rxByteTimeStart b
  | .time => .rxByteTime b
  | .cmdStart => .rxByteCmdStart b
  | .cmd => .rxByteCmd b

/-- An operation word without state field and data bits must hold zeros there (rule R97). -/
def zeroFields (w : Word) (k : Except DecodeError Instr) : Except DecodeError Instr :=
  if stateField w ≠ 0 then .error .stateFieldNotZero
  else if dataField w ≠ 0 then .error .dataBitsNotZero
  else k

/-- An operation that takes no operand beside its word. -/
def noBeside (x : Beside) (i : Instr) : Except DecodeError Instr :=
  match x with
  | .nothing => .ok i
  | .crc _ | .crcByte _ _ | .echo _ _ _ => .error .besideMismatch

/-- The operands of CRCUPDATE. -/
def crcUpdateBeside (x : Beside) : Except DecodeError Instr :=
  match x with
  | .crcByte c b => .ok (.crcUpdate c b)
  | .nothing | .crc _ | .echo _ _ _ => .error .besideMismatch

/-- The operands of SENDECHO (rule R230). -/
def sendEchoBeside (x : Beside) : Except DecodeError Instr :=
  match x with
  | .echo opcode args result =>
    if echoArgsOk args then .ok (.sendEcho opcode args result) else .error .tooManyArgs
  | .nothing | .crc _ | .crcByte _ _ => .error .besideMismatch

/-- The operand of CRCRESIDUECHECK. -/
def crcResidueCheckBeside (x : Beside) : Except DecodeError Instr :=
  match x with
  | .crc c => .ok (.crcResidueCheck c)
  | .nothing | .crcByte _ _ | .echo _ _ _ => .error .besideMismatch

/-- Selector 0x1: RxByte, by its state field (rules R96, R97). -/
def decodeRxByte (o : Operation) : Except DecodeError Instr :=
  match rxStateOfCode (stateField o.word) with
  | some st => noBeside o.beside (rxByteInstr st (dataField o.word))
  | none => .error .reservedRxState

/-- Selector 0xC: SendAlarm, by its code (rules R96, R97). -/
def decodeSendAlarm (o : Operation) : Except DecodeError Instr :=
  if stateField o.word ≠ 0 then .error .stateFieldNotZero
  else
    match alarmOfCode (dataField o.word) with
    | some code => noBeside o.beside (.sendAlarm code)
    | none => .error .alarmCodeOutOfRange

/-- The operation an operation word and the operands beside it stand for (rule R96), or the reserved class it is in
(rule R97). DESIGN CHOICE (log entry 17): a word in several reserved classes is refused with the first of bit 11, selector,
state field, alarm code or data bits, and for its operands only when its word is in none; rule R97 gives no order
(F800 is refused as bit11Set, 2101 as stateFieldNotZero). -/
def decode (o : Operation) : Except DecodeError Instr :=
  if bit11 o.word then .error .bit11Set
  else
    match (selectorField o.word).toNat with
    | 0x0 => zeroFields o.word (noBeside o.beside .reset)
    | 0x1 => decodeRxByte o
    | 0x2 => zeroFields o.word (noBeside o.beside .buildTable)
    | 0x3 => zeroFields o.word (crcUpdateBeside o.beside)
    | 0x4 => zeroFields o.word (noBeside o.beside .seqAdvance)
    | 0x5 => zeroFields o.word (noBeside o.beside .seqReset)
    | 0x6 => zeroFields o.word (noBeside o.beside .hbToggle)
    | 0x7 => zeroFields o.word (noBeside o.beside .pwrToggle)
    | 0x8 => zeroFields o.word (noBeside o.beside .metAdvance)
    | 0x9 => zeroFields o.word (noBeside o.beside .dispatch)
    | 0xA => zeroFields o.word (noBeside o.beside .sendStatus)
    | 0xB => zeroFields o.word (sendEchoBeside o.beside)
    | 0xC => decodeSendAlarm o
    | 0xD => zeroFields o.word (noBeside o.beside .rxReset)
    | 0xE => zeroFields o.word (crcResidueCheckBeside o.beside)
    | _ => .error .reservedSelector

/-- The fields of an operation word put at their bits, bit 11 zero (rule R96). -/
def operationWord (selector : BitVec 4) (state : BitVec 3) (data : Byte) : Word :=
  (selector.setWidth 16 <<< 12) ||| (state.setWidth 16 <<< 8) ||| data.setWidth 16

/-- The operation word of RxByte of `b` in the state `st` (rule R96). -/
def rxByteWord (st : RxState) (b : Byte) : Word := operationWord 0x1 st.code b

/-- The operation word and operands of each operation (rule R96). -/
def encode : Instr → Operation
  | .reset => ⟨operationWord 0x0 0 0, .nothing⟩
  | .rxByteIdle b => ⟨rxByteWord .idle b, .nothing⟩
  | .rxByteLength b => ⟨rxByteWord .length b, .nothing⟩
  | .rxByteTimeStart b => ⟨rxByteWord .timeStart b, .nothing⟩
  | .rxByteTime b => ⟨rxByteWord .time b, .nothing⟩
  | .rxByteCmdStart b => ⟨rxByteWord .cmdStart b, .nothing⟩
  | .rxByteCmd b => ⟨rxByteWord .cmd b, .nothing⟩
  | .buildTable => ⟨operationWord 0x2 0 0, .nothing⟩
  | .crcUpdate c b => ⟨operationWord 0x3 0 0, .crcByte c b⟩
  | .seqAdvance => ⟨operationWord 0x4 0 0, .nothing⟩
  | .seqReset => ⟨operationWord 0x5 0 0, .nothing⟩
  | .hbToggle => ⟨operationWord 0x6 0 0, .nothing⟩
  | .pwrToggle => ⟨operationWord 0x7 0 0, .nothing⟩
  | .metAdvance => ⟨operationWord 0x8 0 0, .nothing⟩
  | .dispatch => ⟨operationWord 0x9 0 0, .nothing⟩
  | .sendStatus => ⟨operationWord 0xA 0 0, .nothing⟩
  | .sendEcho opcode args result => ⟨operationWord 0xB 0 0, .echo opcode args result⟩
  | .sendAlarm code => ⟨operationWord 0xC 0 code.code, .nothing⟩
  | .rxReset => ⟨operationWord 0xD 0 0, .nothing⟩
  | .crcResidueCheck c => ⟨operationWord 0xE 0 0, .crc c⟩

/-- The operands beside a word, all zero (an Echo with no argument), in the shape its selector takes: what stands beside a
word of spec/opcode_table.json, which gives these operands no bits. -/
def zeroBeside (w : Word) : Beside :=
  match (selectorField w).toNat with
  | 0x3 => .crcByte 0 0
  | 0xB => .echo 0 [] 0
  | 0xE => .crc 0
  | _ => .nothing

/-- The operation given by the low `nbits` bits of `w`, with zero operands beside it. -/
def operationOfTableWord (nbits w : Nat) : Operation :=
  let word : Word := BitVec.ofNat 16 (w % 2 ^ nbits)
  ⟨word, zeroBeside word⟩

/-- The instruction the decoder reads from an operation word of spec/opcode_table.json. A word has 16 bits (rule R96); any
other width is no operation word. -/
def decodeTableWord (nbits w : Nat) : Option Instr :=
  if nbits = 16 then
    match decode (operationOfTableWord nbits w) with
    | .ok i => some i
    | .error _ => none
  else none

end Sys2Proof
end

