-- ==== Sys2Proof/Machine/Crc.lean ====
section
/-! DEFINITION. The CRC-16 lookup-table engine (40_crc_engine.md): "a pure function of bytes in, checksum out; no protocol
knowledge". The table is an argument here; the machine's own table is a field of its state (rule R29). -/

namespace Sys2Proof.Machine

/-- The 256 table entries (rule R29), one 16-bit entry per index. -/
abbrev CrcTable := Vector Word 256

/-- One of the 8 bit steps of BuildTable (rule R120): shift left by 1; if the bit shifted out was 1, XOR the polynomial. -/
def crcShift (acc : Word) : Word :=
  if acc.getLsbD 15 then (acc <<< 1) ^^^ crcPoly else acc <<< 1

/-- `n` bit steps. -/
def crcShifts : Nat → Word → Word
  | 0, acc => acc
  | n + 1, acc => crcShifts n (crcShift acc)

/-- Entry `i` of the table (rule R120): byte i in the top of a zero accumulator, then 8 bit steps. -/
def crcTableEntry (i : Byte) : Word := crcShifts 8 (i.setWidth 16 <<< 8)

/-- The table that BuildTable makes (rule R120). -/
def builtCrcTable : CrcTable :=
  ⟨⟨(List.range 256).map fun i => crcTableEntry (BitVec.ofNat 8 i)⟩, by simp⟩

/-- `TableRead(i)` (rule R8). A byte is always inside the 256 entries (rule R61). -/
def tableRead (table : CrcTable) (i : Byte) : Word := table[i.toNat]'i.isLt

/-- `CrcUpdate(c, b)` (rule R121). -/
def crcUpdate (table : CrcTable) (c : Word) (b : Byte) : Word :=
  (c <<< 8) ^^^ tableRead table (c.extractLsb' 8 8 ^^^ b)

/-- `CrcSpan(s, d)` (rule R123). -/
def crcSpan (table : CrcTable) (seed : Word) (d : List Byte) : Word :=
  d.foldl (crcUpdate table) seed

/-- `CrcResidueCheck(c)` (rule R122): it passes exactly at 0x0000. -/
def crcResiduePass (c : Word) : Bool := decide (c = 0)

end Sys2Proof.Machine
end

