-- ==== Sys2Proof/Machine/Registers.lean ====
section
/-! DEFINITION. The registers and arrays of the block as the spec groups them: the receiver's per-frame state (rules R23 to
R26), the instrument state (rule R27), the outbound side (rules R22, R30), the input port (rules R21, R22), with the value
each group takes at reset (rule R281). -/

namespace Sys2Proof.Machine

/-- The block's byte memory, the command scratch buffer (rules R25, R60), as (index, byte) pairs in one canonical form:
indices strictly rising, and no entry equal to 0x00, which is what an index without an entry reads as (the reset value of
rule R25). -/
abbrev Memory := List Host.Cell

/-- One entry of the command record file (rule R26). -/
structure CmdRecord where
  /-- `rec_off`: scratch index of the record's opcode byte, 8 bits. -/
  off : Byte
  /-- `rec_cnt`: the record's argument count, 8 bits. -/
  cnt : Byte
deriving DecidableEq, Repr

/-- The per-frame state (rules R23 to R26), all of it cleared by RxReset (rule R140). The widths are those of rule R24; the
four registers whose width rule R24 makes depend on the parameters (`pos`, `cmd_start_wp`, `cmd_k`, `wp`) are natural
numbers (log entry 5). -/
structure Receiver where
  /-- `rx_state` (rule R23). -/
  rxState : RxState
  /-- `sync_win`: the last 4 bytes seen in IDLE. -/
  syncWin : Long
  /-- `pos` (p): frame position of the byte being consumed. -/
  pos : Nat
  /-- `crc`: running CRC over p = 5..current. -/
  crc : Word
  /-- `len_ok`: the length field was accepted and `frame_end` is valid. -/
  lenOk : Bool
  /-- `frame_end` (E): `6 + L`. -/
  frameEnd : Word
  /-- `last`: the previous byte consumed while sync-locked. -/
  last : Byte
  /-- `sub_hdr`: header word of the first sub-packet. -/
  subHdr : Word
  /-- `tl`: declared length of the timestamp sub-packet. -/
  tl : Word
  /-- `time_sr`: shift register collecting p = 15..18. -/
  timeSr : Long
  /-- `fmt_err`: the deferred timestamp format-error flag. -/
  fmtErr : Bool
  /-- `idle_cnt`: bytes consumed in CMD_START since the last header or alarm. -/
  idleCnt : Byte
  /-- `cmd_c` (c): command byte counter. -/
  cmdC : Word
  /-- `cmd_len` (CL): declared length of the current command. -/
  cmdLen : Word
  /-- `cmd_pad`: the current command carries a pad byte. -/
  cmdPad : Bool
  /-- `cmd_end`: the c at which the current command is complete. -/
  cmdEnd : Word
  /-- `cmd_start_wp`: scratch index of the current command's first body byte. -/
  cmdStartWp : Nat
  /-- `cmd_k` (k): number of completed command records. -/
  cmdK : Nat
  /-- `wp`: scratch write index. -/
  wp : Nat
  /-- `scratch[0..SCRATCH_SIZE-1]` (rule R25). -/
  scratch : Memory
  /-- `rec_off[j]`, `rec_cnt[j]` for j < `MAX_CMDS` (rule R26). -/
  recs : List CmdRecord
deriving DecidableEq, Repr

/-- The instrument state (rule R27), not cleared by RxReset. -/
structure Instrument where
  /-- `hb`: heartbeat bit. -/
  hb : Bool
  /-- `pw`: power bit. -/
  pw : Bool
  /-- `seq`: sequence count. -/
  seq : BitVec 14
  /-- `met`: mission elapsed time. -/
  met : Long
  /-- `sic`: status-interval counter. -/
  sic : Long
  /-- `pending_time`: MET captured from a timestamp sub-packet. -/
  pendingTime : Long
  /-- `time_received`: `pending_time` holds a valid, unused capture. -/
  timeReceived : Bool
deriving DecidableEq, Repr

/-- The tag of an outbound packet (rules R8, R22). -/
inductive PacketKind where
  | status
  | echo
  | alarm
deriving DecidableEq, Repr

/-- One outbound packet: "a byte string tagged Status, Echo or Alarm" (rule R22). -/
structure Packet where
  kind : PacketKind
  bytes : List Byte
deriving DecidableEq, Repr

/-- The outbound side: the shared buffer, the stream, and the transport as the flush sees it. -/
structure Link where
  /-- `outbuf`, the shared outbound buffer of 140 bytes (rule R30). -/
  outbuf : List Byte
  /-- The ordered outbound stream (rules R22, R67), the oldest packet first. -/
  outbound : List Packet
  /-- A packet handed over and not yet known to be drained (rule R280: "no packet in flight"). -/
  inFlight : Bool
  /-- The transport, an input (log entry 6): `none`, it drains every packet (rule R283, item 2); `some n`, it drains n more
  packets and then never again (item I9). -/
  drains : Option Nat
deriving DecidableEq, Repr

/-- One item at the block's input port (rules R21, R22): "No other operation reaches the block from outside". -/
inductive PortItem where
  /-- An inbound byte: `RxByte(b)`, in whatever state the receiver is in. -/
  | byte (b : Byte)
  /-- `Reset`: power-on reset. -/
  | reset
deriving DecidableEq, Repr

/-- The value an operation returned: CRCUPDATE and CRCRESIDUECHECK "write no state" and return one (rules R121, R122).
The MODEL's own (log entry 8). -/
inductive Returned where
  | nothing
  | crc (c : Word)
  | residue (pass : Bool)
deriving DecidableEq, Repr

/-- The record file at reset: `MAX_CMDS` entries, all zero (rule R26). -/
def recsCleared (cfg : Config) : List CmdRecord := List.replicate cfg.maxCmds ⟨0, 0⟩

/-- The per-frame state that RxReset leaves (rules R24, R140, R281). -/
def rxCleared (cfg : Config) : Receiver where
  rxState := .idle
  syncWin := 0
  pos := 0
  crc := 0xFFFF
  lenOk := false
  frameEnd := 0
  last := 0
  subHdr := 0
  tl := 0
  timeSr := 0
  fmtErr := false
  idleCnt := 0
  cmdC := 0
  cmdLen := 0
  cmdPad := false
  cmdEnd := 0
  cmdStartWp := 0
  cmdK := 0
  wp := 0
  scratch := []
  recs := recsCleared cfg

/-- The instrument state after power-on reset (rules R27, R280). -/
def instrumentPowerOn : Instrument where
  hb := false
  pw := false
  seq := 0
  met := 0
  sic := 0
  pendingTime := 0
  timeReceived := false

/-- What RESET leaves in `outbuf` for the `n`th time: `statusTotal` free bytes (rule R281, item I8, log entry 7). -/
def outbufUnspecified (n : Nat) : List Byte := (List.range statusTotal).map (Config.freeOutbufByte n)

end Sys2Proof.Machine
end

