-- ==== Sys2Proof/Machine/Operands.lean ====
section
/-! DEFINITION. How field values are assembled from inbound bytes and split into outbound bytes (rules R7, R62, R63, R93):
whole bytes, big-endian, no scaling, no sign. -/

namespace Sys2Proof.Machine

/-- `BE16(x, y) = {x, y}` (rule R7). -/
def be16 (x y : Byte) : Word := (x.setWidth 16 <<< 8) ||| y.setWidth 16

/-- `((v << 8) | b) & 0xFFFFFFFF`: a byte shifted into a 32-bit register (rules R143, R149). -/
def shiftIn (v : Long) (b : Byte) : Long := (v <<< 8) ||| b.setWidth 32

/-- A 16-bit value as two bytes, high byte first (rule R63). -/
def wordBytes (v : Word) : List Byte := [v.extractLsb' 8 8, v.extractLsb' 0 8]

/-- A 32-bit value as four bytes, high byte first (rules R63, R226). -/
def longBytes (v : Long) : List Byte :=
  [v.extractLsb' 24 8, v.extractLsb' 16 8, v.extractLsb' 8 8, v.extractLsb' 0 8]

/-- The window: `BE16(previous byte, current byte)` (rules R10, R141). -/
def window (rx : Receiver) (b : Byte) : Word := be16 rx.last b

/-- `LF[15:13]`, the format field of the length field (rule R81). -/
def lengthFormat (lf : Word) : BitVec 3 := lf.extractLsb' 13 3

/-- `L = LF[12:0]` (rule R81). -/
def frameLength (lf : Word) : BitVec 13 := lf.extractLsb' 0 13

/-- `apid(H) = H[10:0]` (rule R82). -/
def apidOf (h : Word) : BitVec 11 := h.extractLsb' 0 11

/-- `KnownApid(H)` (rule R159). -/
def knownApid (cfg : Config) (h : Word) : Bool :=
  decide (apidOf h = apidOf cfg.cmdMarker) || decide (apidOf h = apidOf cfg.timeMarker)

/-- L lies outside [`ITF_LEN_MIN`, `ITF_LEN_MAX`] (rule R145). -/
def frameLengthBad (cfg : Config) (l : BitVec 13) : Bool :=
  decide (l.toNat < cfg.itfLenMin) || decide (cfg.itfLenMax < l.toNat)

/-- CL lies outside [`MIN_CMD`, `MAX_CMD`], compared unsigned over all 16 bits (rules R93, R152). -/
def cmdLengthBad (cfg : Config) (cl : Word) : Bool :=
  decide (cl.toNat < cfg.minCmd) || decide (cfg.maxCmd < cl.toNat)

/-- The alarm for a header word that is no marker: CCSDS_FORMAT if its APID is known, else CCSDS_APID (rule R147). -/
def headerAlarm (cfg : Config) (h : Word) : AlarmCode :=
  if knownApid cfg h then .ccsdsFormat else .ccsdsApid

/-- The 16-byte prefix of every packet of total size `total` (rules R87, R221 to R226), from the instrument state as it
stands when the packet is built. -/
def packetHead (inst : Instrument) (apid : BitVec 11) (total : Nat) : List Byte :=
  let bodyLen : BitVec 11 := BitVec.ofNat 11 (total - 6)
  let flags : Byte := ((BitVec.ofBool inst.hb).setWidth 8 <<< 7) ||| ((BitVec.ofBool inst.pw).setWidth 8 <<< 6) |||
    (bodyLen.extractLsb' 8 3).setWidth 8
  let subHeader : Byte := 0x08 ||| (apid.extractLsb' 8 3).setWidth 8
  let grouping : Byte := 0xC0 ||| (inst.seq.extractLsb' 8 6).setWidth 8
  syncBytes ++ [flags, bodyLen.extractLsb' 0 8, subHeader, apid.extractLsb' 0 8, grouping, inst.seq.extractLsb' 0 8]
    ++ wordBytes (BitVec.ofNat 16 (total - 16)) ++ longBytes inst.met

/-- A scratch index as `rec_off` holds it: its low 8 bits (rule R26, log entry 16). -/
def recordOffset (i : Nat) : Byte := BitVec.ofNat 8 i

/-- The payload of an Echo: result, opcode, arguments, and one 0x00 when the number of arguments is odd (rules R89, R231). -/
def echoPayload (opcode : Byte) (args : List Byte) (result : Byte) : List Byte :=
  [result, opcode] ++ args ++ List.replicate (args.length % 2) 0

/-- `T = 20 + n + (n mod 2)` for an Echo with n arguments (rule R230). -/
def echoTotal (n : Nat) : Nat := 20 + n + n % 2

/-- The payload of an Alarm: the code and three zeros (rules R90, R232). -/
def alarmPayload (code : AlarmCode) : List Byte := [code.code, 0, 0, 0]

/-- The payload of a Status: 122 zeros (rules R88, R229). -/
def statusPayload : List Byte := List.replicate 122 0

end Sys2Proof.Machine
end

