-- ==== Sys2Proof/Machine/Flags.lean ====
section
/-! DEFINITION. The flags of rule R32 and the two conditions that have no stored flag: what sets each, and what each reads
as. -/

namespace Sys2Proof.Machine

/-- `fmt_err` after a byte of the reserved span (rule R150): set by a nonzero byte, cleared only by RxReset. -/
def fmtErrNext (fmtErr : Bool) (b : Byte) : Bool := fmtErr || decide (b ≠ 0)

/-- `cmd_pad` for a declared length CL (rule R152): 1 when `CL[0]` is 0, since the body length CL - 3 is odd then. -/
def cmdPadFlag (cl : Word) : Bool := !cl.getLsbD 0

/-- `cmd_end` for a declared length CL (rule R152): `CL + 7 + cmd_pad`. -/
def cmdEndOf (cl : Word) : Word := cl + 7 + (BitVec.ofBool (cmdPadFlag cl)).setWidth 16

/-- "mark sync found": the last four bytes are the marker (rules R64, R143). -/
def syncFound (win : Long) : Bool := decide (win = syncMarker)

/-- "mark end-of-frame": `len_ok` = 1 and `pos` = `frame_end` (rules R32, R141). -/
def atFrameEnd (rx : Receiver) : Bool := rx.lenOk && decide (rx.pos = rx.frameEnd.toNat)

/-- The overflow guard: `pos > MAX_PACKET_SIZE` (rule R142). -/
def overflowed (cfg : Config) (rx : Receiver) : Bool := decide (cfg.maxPacketSize < rx.pos)

/-- The current byte lies before the trailer: `pos ≤ frame_end - 2` (rule R151). -/
def beforeTrailer (rx : Receiver) : Bool := decide (rx.pos + 2 ≤ rx.frameEnd.toNat)

/-- `sic` reached a nonzero `STATUS_INTERVAL` (rule R205). -/
def statusDue (cfg : Config) (inst : Instrument) : Bool :=
  decide (cfg.statusInterval ≠ 0) && decide (inst.sic = cfg.statusInterval)

/-- The bits of the instrument state after MetAdvance's update of `met`, without the status tick (rule R204): a capture is
used once, else `met` counts up by one. -/
def metNext (inst : Instrument) : Instrument :=
  if inst.timeReceived then { inst with met := inst.pendingTime, timeReceived := false }
  else { inst with met := inst.met + 1 }

end Sys2Proof.Machine
end

