-- ==== Sys2Proof/Machine/State.lean ====
section
/-! DEFINITION. The state of the block, plain data, with every element of rule R281 and the host side of the interface of
rule R22; why a step can stop; and the state after reset. -/

namespace Sys2Proof.Machine

/-- The state of the block. -/
structure State where
  /-- The parameters, `STATUS_INTERVAL` among them (rules R4, R28); fixed for a run. -/
  cfg : Config
  /-- The receiver's per-frame state (rules R23 to R26). -/
  rx : Receiver
  /-- The instrument state (rule R27). -/
  inst : Instrument
  /-- `crc_table[0..255]` (rule R29). -/
  crcTable : CrcTable
  /-- The outbound side (rules R22, R30, R66). -/
  link : Link
  /-- The input port: what the host has delivered and the block has not consumed, the oldest first (rules R21, R22). -/
  inbound : List PortItem
  /-- The MODEL's own: the value last returned by CRCUPDATE or CRCRESIDUECHECK (log entry 8). -/
  returned : Returned
  /-- The MODEL's own: an operation named to the model by its word, to be run alone by the next step (log entry 3). It is no
  part of the block: nothing at the port and no operation fills it, and in a run from reset it stays empty (rule R21). -/
  probe : Option Operation
  /-- The MODEL's own: how many times RESET ran, which picks the next free contents of `outbuf` (log entry 7). -/
  freeCount : Nat
deriving DecidableEq, Repr

/-- Why the block stops. None of these is an alarm: an alarm is an outbound packet and the block goes on (rule R260). -/
inductive Fault where
  /-- The step holds in `WaitDrained` for ever, because the transport never drains (rule R285, item I9, `stuck`). Raised by
  `waitDrained`. Safe: the block does not go on either. -/
  | heldInWaitDrained
  /-- A scratch index outside 0..`SCRATCH_SIZE`-1 (rule R61: "It should fault, not return a value"). Raised by
  `scratchRead` and `scratchWrite`. Safe: no run from reset reaches it. -/
  | scratchOutOfBounds
  /-- A record index outside 0..`MAX_CMDS`-1 (rule R61). Raised by `recordRead` and `recordWrite`. Safe: no run from reset
  reaches it. -/
  | recordOutOfBounds
  /-- A packet longer than `outbuf` (rule R61; rule R235: "A build cannot overflow `outbuf`"). Raised by `writeOutbuf`.
  Safe: no operation with its operands in range reaches it. -/
  | outbufOutOfBounds
  /-- An Echo with more than `MAX_ARGS` argument bytes (rule R230: 0 ≤ n ≤ 10). Raised by `sendEcho`. Safe: the decoder
  refuses such operands and no record of a run from reset holds such a count. -/
  | echoArgsOutOfRange
deriving DecidableEq, Repr

/-- Why an operation has no meaning. -/
inductive Refusal where
  /-- An operation that has no meaning yet, by its mnemonic. Raised by `exec` only. Safe. -/
  | notModelled (mnemonic : String)
  /-- A reserved operation word: "A model refuses each one by name" (rule R97, item I10). Raised by `runOperation`. Safe. -/
  | reservedWord (why : DecodeError)
  /-- An RxByte operation word that names a state the receiver is not in; rule R96 makes the field the receiver's own
  `rx_state`, so the block never forms such a word and no rule gives it an effect (log entry 9). Raised by the RXBYTE
  meanings. Safe. -/
  | rxStateMismatch
deriving DecidableEq, Repr

/-- The block right after power-on reset with the parameters `cfg` (rules R280, R281). `outbuf` is zero here (DESIGN
CHOICE, log entry 7), the transport drains (log entry 6) and nothing has been delivered. -/
def State.powerOn (cfg : Config) : State where
  cfg := cfg
  rx := rxCleared cfg
  inst := instrumentPowerOn
  crcTable := builtCrcTable
  link := { outbuf := List.replicate statusTotal 0, outbound := [], inFlight := false, drains := none }
  inbound := []
  returned := .nothing
  probe := none
  freeCount := 0

/-- The machine right after reset, with the default parameters of rule R4. -/
def State.reset : State := State.powerOn Config.default

/-- The state with another receiver part. -/
def State.withRx (s : State) (rx : Receiver) : State := { s with rx := rx }

/-- The state with another instrument part. -/
def State.withInst (s : State) (inst : Instrument) : State := { s with inst := inst }

/-- The state with another outbound side. -/
def State.withLink (s : State) (link : Link) : State := { s with link := link }

/-- The state with another CRC table. -/
def State.withCrcTable (s : State) (table : CrcTable) : State := { s with crcTable := table }

/-- The state with another returned value. -/
def State.withReturned (s : State) (r : Returned) : State := { s with returned := r }

/-- The state with another input port. -/
def State.withInbound (s : State) (items : List PortItem) : State := { s with inbound := items }

/-- The state with another named operation. -/
def State.withProbe (s : State) (o : Option Operation) : State := { s with probe := o }

end Sys2Proof.Machine
end

