-- ==== Sys2Proof/Machine/Ops.lean ====
section
/-! DEFINITION. The named operations over the scratch buffer, the record file, the outbound side and the instrument state;
the common packet build and the three sends; RAISING AN ALARM, the block's one exception (rule R260); the receiver reset;
and the helpers of the receiver (BeginCommand, Excise, EndOfFrame). -/

namespace Sys2Proof.Machine

/-- What an operation inside a step answers: a value, or the reason the block stops there. -/
abbrev Res := Except Fault

/-- An operation's answer as the outcome of the step it makes up. -/
def toOutcome : Res State → Host.Outcome State Fault Refusal
  | .ok s => .next s
  | .error f => .fault f

/-! ### The scratch buffer (rules R25, R60, R61) -/

/-- The byte at index `a`; an index without an entry reads as 0x00 (rule R25). -/
def Memory.read : Memory → Nat → Byte
  | [], _ => 0
  | (k, v) :: m, a => if k = a then v else Memory.read m a

/-- `m` with the byte at index `a` set to `v`, in canonical form. -/
def Memory.write : Memory → Nat → Byte → Memory
  | [], a, v => if v = 0 then [] else [(a, v)]
  | (k, x) :: m, a, v =>
    if a < k then (if v = 0 then (k, x) :: m else (a, v) :: (k, x) :: m)
    else if a = k then (if v = 0 then m else (a, v) :: m)
    else (k, x) :: Memory.write m a v

/-- Every index of `m` lies above `a`. -/
def Memory.above (a : Nat) : Memory → Bool
  | [] => true
  | (k, _) :: _ => decide (a < k)

/-- The canonical form: indices strictly rising, no entry 0x00. -/
def Memory.wf : Memory → Bool
  | [] => true
  | (k, v) :: m => decide (v ≠ 0) && Memory.above k m && Memory.wf m

/-- `ScratchRead(i)` (rules R8, R61). -/
def scratchRead (s : State) (i : Nat) : Res Byte :=
  if i < s.cfg.scratchSize then .ok (Memory.read s.rx.scratch i) else .error .scratchOutOfBounds

/-- `[ScratchRead(i), ..., ScratchRead(i+n-1)]` (rule R220). -/
def scratchReads (s : State) : Nat → Nat → Res (List Byte)
  | _, 0 => .ok []
  | i, n + 1 => do
    let b ← scratchRead s i
    let bs ← scratchReads s (i + 1) n
    .ok (b :: bs)

/-- `ScratchWrite(i, v)` (rules R8, R61). -/
def scratchWrite (s : State) (i : Nat) (v : Byte) : Res State :=
  if i < s.cfg.scratchSize then .ok (s.withRx { s.rx with scratch := Memory.write s.rx.scratch i v })
  else .error .scratchOutOfBounds

/-! ### The command record file (rules R26, R60, R61) -/

/-- The record at index `j`. -/
def recordRead (s : State) (j : Nat) : Res CmdRecord :=
  match s.rx.recs[j]? with
  | some r => .ok r
  | none => .error .recordOutOfBounds

/-- The record at index `j` set to `r`. -/
def recordWrite (s : State) (j : Nat) (r : CmdRecord) : Res State :=
  if j < s.rx.recs.length then .ok (s.withRx { s.rx with recs := s.rx.recs.set j r }) else .error .recordOutOfBounds

/-! ### The instrument state (42_instrument_state.md) -/

/-- `SeqAdvance()` (rule R200): the sequence count, mod 2^14. -/
def seqAdvance (s : State) : State := s.withInst { s.inst with seq := s.inst.seq + 1 }

/-- `SeqReset()` (rule R201). -/
def seqReset (s : State) : State := s.withInst { s.inst with seq := 0 }

/-- `HbToggle()` (rule R202). -/
def hbToggle (s : State) : State := s.withInst { s.inst with hb := !s.inst.hb }

/-- `PwrToggle()` (rule R203). -/
def pwrToggle (s : State) : State := s.withInst { s.inst with pw := !s.inst.pw }

/-! ### The packet build and the send (rules R221 to R228) -/

/-- `WaitDrained()` (rules R66, R71, R285): nothing to wait for when no packet is in flight; otherwise the hold is lifted by
the transport's drain, and by nothing else. -/
def waitDrained (s : State) : Res State :=
  if s.link.inFlight then
    match s.link.drains with
    | none => .ok (s.withLink { s.link with inFlight := false })
    | some (n + 1) => .ok (s.withLink { s.link with inFlight := false, drains := some n })
    | some 0 => .error .heldInWaitDrained
  else .ok s

/-- `BuildPacket(apid, T, payload)` (rule R221): the prefix, the payload, and the CRC over bytes 4..T-3 (rule R227). -/
def buildPacket (s : State) (apid : BitVec 11) (total : Nat) (payload : List Byte) : List Byte :=
  let body := packetHead s.inst apid total ++ payload
  body ++ wordBytes (crcSpan s.crcTable crcSeed (body.drop 4))

/-- `outbuf[0..T-1] <- bytes` (rules R30, R61, R228). -/
def writeOutbuf (s : State) (bytes : List Byte) : Res State :=
  if bytes.length ≤ statusTotal then
    .ok (s.withLink { s.link with outbuf := bytes ++ s.link.outbuf.drop bytes.length })
  else .error .outbufOutOfBounds

/-- `Emit(kind, outbuf[0..T-1])` (rules R8, R66, R67): the packet joins the end of the outbound stream and is in flight. -/
def emit (s : State) (kind : PacketKind) (total : Nat) : State :=
  s.withLink { s.link with outbound := s.link.outbound ++ [⟨kind, s.link.outbuf.take total⟩], inFlight := true }

/-- `Send(kind, apid, T, payload)` (rule R228). -/
def send (s : State) (kind : PacketKind) (apid : BitVec 11) (total : Nat) (payload : List Byte) : Res State := do
  let s ← waitDrained (seqAdvance s)
  let s ← writeOutbuf s (buildPacket s apid total payload)
  .ok (emit s kind total)

/-- `SendStatus()` (rule R229). -/
def sendStatus (s : State) : Res State := do
  let s ← send s .status apidStatus statusTotal statusPayload
  .ok (hbToggle s)

/-- `SendEcho(opcode, args, result)` (rule R230). -/
def sendEcho (s : State) (opcode : Byte) (args : List Byte) (result : Byte) : Res State :=
  if echoArgsOk args then do
    let s ← send s .echo apidEcho (echoTotal args.length) (echoPayload opcode args result)
    .ok (hbToggle s)
  else .error .echoArgsOutOfRange

/-- TAKING THE BLOCK'S ONE EXCEPTION: `raise Alarm(code)`, which is `SendAlarm(code)` (rules R233, R260). No state is saved,
no mode changes and control goes on in the rule that raised it (rule R262), so there is nothing to return from (rule R265):
an alarm writes `seq` and emits one packet, and does not toggle the heartbeat. -/
def raiseAlarm (s : State) (code : AlarmCode) : Res State :=
  send s .alarm apidAlarm alarmTotal (alarmPayload code)

/-! ### Mission time and the automatic Status (rules R204, R205) -/

/-- `StatusTick()` (rule R205). -/
def statusTick (s : State) : Res State :=
  let s := s.withInst { s.inst with sic := s.inst.sic + 1 }
  if statusDue s.cfg s.inst then do
    let s ← sendStatus s
    .ok (s.withInst { s.inst with sic := 0 })
  else .ok s

/-- `MetAdvance()` (rule R204). -/
def metAdvance (s : State) : Res State := statusTick (s.withInst (metNext s.inst))

/-! ### The dispatcher (rule R220) -/

/-- One turn of Dispatch's loop: record `j` is echoed with a zero result. -/
def echoRecord (s : State) (j : Nat) : Res State := do
  let r ← recordRead s j
  let opcode ← scratchRead s r.off.toNat
  let args ← scratchReads s (r.off.toNat + 1) r.cnt.toNat
  sendEcho s opcode args 0

/-- Records `j`, `j+1`, ..., `n` of them, in that order. -/
def echoRecords : Nat → Nat → State → Res State
  | 0, _, s => .ok s
  | n + 1, j, s => do
    let s ← echoRecord s j
    echoRecords n (j + 1) s

/-- `Dispatch()` (rule R220): an Echo for each record 0..cmd_k-1. -/
def dispatch (s : State) : Res State := echoRecords s.rx.cmdK 0 s

/-! ### The receiver's helpers (41_frame_receiver.md) -/

/-- `RxReset()` (rule R140). -/
def rxReset (s : State) : State := s.withRx (rxCleared s.cfg)

/-- What a state rule answers: whether it aborted the step, and the state (rule R141). -/
inductive After where
  /-- The state rule called RxReset; the end-of-frame check is skipped. -/
  | aborted (s : State)
  /-- The step goes on. -/
  | goesOn (s : State)
deriving DecidableEq, Repr

/-- `raise Alarm(code); RxReset(); return aborted`. -/
def abortWith (s : State) (code : AlarmCode) : Res After := do
  let s ← raiseAlarm s code
  .ok (.aborted (rxReset s))

/-- `rx_state <- CMD_START; idle_cnt <- 0`. -/
def toCmdStart (s : State) : State := s.withRx { s.rx with rxState := .cmdStart, idleCnt := 0 }

/-- `raise Alarm(code)`, then on to CMD_START. -/
def alarmToCmdStart (s : State) (code : AlarmCode) : Res After := do
  let s ← raiseAlarm s code
  .ok (.goesOn (toCmdStart s))

/-- `BeginCommand(c0)` (rule R154). -/
def beginCommand (s : State) (c0 : Word) : Res After :=
  if s.cfg.maxCmds ≤ s.rx.cmdK then abortWith s .itfLength
  else
    .ok (.goesOn (s.withRx { s.rx with
      cmdC := c0, cmdStartWp := s.rx.wp, cmdLen := 0, cmdPad := false, cmdEnd := 0, rxState := .cmd, idleCnt := 0 }))

/-- The predecessor's argument count, cleared by an excision when `EXCISE_CLEARS_PRED_COUNT` holds (rule R153). -/
def clearPredecessorCount (s : State) : Res State :=
  if s.cfg.exciseClearsPredCount && decide (1 ≤ s.rx.cmdK) then do
    let r ← recordRead s (s.rx.cmdK - 1)
    recordWrite s (s.rx.cmdK - 1) { r with cnt := 0 }
  else .ok s

/-- `Excise()` (rule R153). -/
def excise (s : State) : Res State := do
  let s ← recordWrite s s.rx.cmdK ⟨0, 0⟩
  let s ← clearPredecessorCount s
  .ok (s.withRx { s.rx with wp := s.rx.cmdStartWp, cmdC := 0, cmdLen := 0, cmdPad := false, cmdEnd := 0 })

/-- The verdict of a frame's end (rule R158): dispatch on a zero residue, else one ITF_CHECKSUM alarm. -/
def frameVerdict (s : State) : Res State :=
  if crcResiduePass s.rx.crc then dispatch s else raiseAlarm s .itfChecksum

/-- `EndOfFrame()` (rule R158): the verdict, then "full reset regardless". -/
def endOfFrame (s : State) : Res State := do
  let s ← frameVerdict s
  .ok (rxReset s)

/-! ### The input port (rules R21, R22) -/

/-- The operation an item at the port stands for. An inbound byte carries no state: the block puts its own `rx_state` into
the operation word (rule R96: "`[10:8]` = `rx_state` for RxByte"). -/
def portOperation (st : RxState) : PortItem → Operation
  | .byte b => ⟨rxByteWord st b, .nothing⟩
  | .reset => encode .reset

/-- The receiver state that an RxByte word names, for a word that is one; otherwise the state given. -/
def rxStateFor (w : Word) (st : RxState) : RxState :=
  if selectorField w = 0x1 then (rxStateOfCode (stateField w)).getD st else st

end Sys2Proof.Machine
end

