-- ==== Sys2Proof/Machine/CrcEngine.lean ====
section
/-! DEFINITION. The meanings of the CRC engine's operations (40_crc_engine.md). -/

namespace Sys2Proof.Machine

/-- BUILDTABLE (rule R120). -/
def execBuildTable (s : State) : Host.Outcome State Fault Refusal := .next (s.withCrcTable builtCrcTable)

/-- CRCUPDATE (rule R121): "It returns a 16-bit value and writes no state". -/
def execCrcUpdate (c : Word) (b : Byte) (s : State) : Host.Outcome State Fault Refusal :=
  .next (s.withReturned (.crc (crcUpdate s.crcTable c b)))

/-- CRCRESIDUECHECK (rule R122): "It returns `pass` iff `c == 0x0000`, and writes no state". -/
def execCrcResidueCheck (c : Word) (s : State) : Host.Outcome State Fault Refusal :=
  .next (s.withReturned (.residue (crcResiduePass c)))

end Sys2Proof.Machine
end

