-- ==== Sys2Proof/Machine/InstrumentOps.lean ====
section
/-! DEFINITION. The meanings of the instrument state's operations (42_instrument_state.md). -/

namespace Sys2Proof.Machine

/-- SEQADVANCE (rule R200). -/
def execSeqAdvance (s : State) : Host.Outcome State Fault Refusal := .next (seqAdvance s)

/-- SEQRESET (rule R201). -/
def execSeqReset (s : State) : Host.Outcome State Fault Refusal := .next (seqReset s)

/-- HBTOGGLE (rule R202). -/
def execHbToggle (s : State) : Host.Outcome State Fault Refusal := .next (hbToggle s)

/-- PWRTOGGLE (rule R203). -/
def execPwrToggle (s : State) : Host.Outcome State Fault Refusal := .next (pwrToggle s)

/-- METADVANCE (rules R204, R205). -/
def execMetAdvance (s : State) : Host.Outcome State Fault Refusal := toOutcome (metAdvance s)

end Sys2Proof.Machine
end

