-- ==== Sys2Proof/Machine/PowerOn.lean ====
section
/-! DEFINITION. The meaning of RESET (70_reset_and_hazards.md). -/

namespace Sys2Proof.Machine

/-- RESET (rules R280, R281): the receiver and the instrument state at their reset values, the table built, the outbound
stream empty and nothing in flight. The parameters keep "the configured value", `outbuf` is unspecified (log entry 7), and
what the host has yet to deliver, the transport and the model's own fields but `freeCount` are no part of the block that
resets. -/
def execReset (s : State) : Host.Outcome State Fault Refusal :=
  .next { s with
    rx := rxCleared s.cfg
    inst := instrumentPowerOn
    crcTable := builtCrcTable
    link := { s.link with outbuf := outbufUnspecified s.freeCount, outbound := [], inFlight := false }
    freeCount := s.freeCount + 1 }

end Sys2Proof.Machine
end

