-- ==== Sys2Proof/Machine/Receiver.lean ====
section
/-! DEFINITION. The meanings of the frame receiver's operations (41_frame_receiver.md): RXBYTE in each of the six states, and
RXRESET. The five sync-locked states share the step of rule R141 and differ in their state rule. -/

namespace Sys2Proof.Machine

/-! ### The step (rules R141, R142) -/

/-- The end of a sync-locked step (rule R141): nothing more after an abort, else the end-of-frame check, else `last <- b`. -/
def finishByte (b : Byte) : After → Res State
  | .aborted s => .ok s
  | .goesOn s => if atFrameEnd s.rx then endOfFrame s else .ok (s.withRx { s.rx with last := b })

/-- `pos <- pos + 1; crc <- CrcUpdate(crc, b)` (rule R141). -/
def countByte (s : State) (b : Byte) : State :=
  s.withRx { s.rx with pos := s.rx.pos + 1, crc := crcUpdate s.crcTable s.rx.crc b }

/-- The step of a sync-locked state (rule R141): count the byte, the overflow guard (rule R142), the state rule `rule` on the
window, the end-of-frame check. -/
def lockedByte (rule : State → Byte → Word → Res After) (s : State) (b : Byte) : Res State :=
  let w := window s.rx b
  let s := countByte s b
  if overflowed s.cfg s.rx then do
    let s ← raiseAlarm s .itfLength
    .ok (rxReset s)
  else do
    let after ← rule s b w
    finishByte b after

/-! ### The state rules -/

/-- `IdleByte(b)` (rule R143). -/
def idleByte (s : State) (b : Byte) : Res State :=
  let win := shiftIn s.rx.syncWin b
  if syncFound win then
    metAdvance (s.withRx { rxCleared s.cfg with pos := 4, crc := 0xFFFF, rxState := .length })
  else .ok (s.withRx { s.rx with syncWin := win })

/-- LENGTH (rules R144, R145): nothing but at p = 6. -/
def lengthRule (s : State) (_b : Byte) (w : Word) : Res After :=
  if s.rx.pos = 6 then
    if lengthFormat w ≠ 0 then abortWith s .ccsdsFormat
    else if frameLengthBad s.cfg (frameLength w) then abortWith s .itfLength
    else
      .ok (.goesOn (s.withRx { s.rx with
        frameEnd := 6 + (frameLength w).setWidth 16, lenOk := true, rxState := .timeStart }))
  else .ok (.goesOn s)

/-- TIME_START at p = 10 (rule R147). -/
def firstHeader (s : State) : Res After :=
  if s.rx.subHdr = s.cfg.timeMarker then .ok (.goesOn (s.withRx { s.rx with rxState := .time }))
  else if s.rx.subHdr = s.cfg.cmdMarker then beginCommand s 4
  else alarmToCmdStart s (headerAlarm s.cfg s.rx.subHdr)

/-- TIME_START (rules R146, R147). -/
def timeStartRule (s : State) (_b : Byte) (w : Word) : Res After :=
  if s.rx.pos = 8 then .ok (.goesOn (s.withRx { s.rx with subHdr := w }))
  else if s.rx.pos = 10 then firstHeader s
  else .ok (.goesOn s)

/-- TIME at p = 15..18 (rule R149): `time_sr` shifts the byte in, and at p = 18 becomes the capture. -/
def timeBytes (s : State) (b : Byte) : State :=
  let t := shiftIn s.rx.timeSr b
  let s := s.withRx { s.rx with timeSr := t }
  if s.rx.pos = 18 then s.withInst { s.inst with pendingTime := t, timeReceived := true } else s

/-- TIME at p = 48, after the reserved-byte test (rule R150): the deferred alarm withdraws the capture; on to CMD_START. -/
def timeEnd (s : State) : Res After :=
  if s.rx.fmtErr then do
    let s ← raiseAlarm s .ccsdsFormat
    .ok (.goesOn (toCmdStart (s.withInst { s.inst with timeReceived := false })))
  else .ok (.goesOn (toCmdStart s))

/-- TIME at p = 19..48, the reserved span (rule R150). -/
def reservedByte (s : State) (b : Byte) : Res After :=
  let s := s.withRx { s.rx with fmtErr := fmtErrNext s.rx.fmtErr b }
  if s.rx.pos = 48 then timeEnd s else .ok (.goesOn s)

/-- TIME (rules R148, R149, R150), by the frame position. -/
def timeRule (s : State) (b : Byte) (w : Word) : Res After :=
  if s.rx.pos = 12 then .ok (.goesOn (s.withRx { s.rx with tl := w }))
  else if s.rx.pos = 14 ∧ s.rx.tl ≠ s.cfg.timeLenExpected then alarmToCmdStart s .ccsdsLength
  else if 15 ≤ s.rx.pos ∧ s.rx.pos ≤ 18 then .ok (.goesOn (timeBytes s b))
  else if 19 ≤ s.rx.pos ∧ s.rx.pos ≤ 48 then reservedByte s b
  else .ok (.goesOn s)

/-- CMD_START (rule R151). -/
def cmdStartRule (s : State) (_b : Byte) (w : Word) : Res After :=
  let s := s.withRx { s.rx with idleCnt := s.rx.idleCnt + 1 }
  if 2 ≤ s.rx.idleCnt.toNat ∧ w = s.cfg.cmdMarker then beginCommand s 2
  else if 2 < s.rx.idleCnt.toNat then do
    let s ← raiseAlarm s (if beforeTrailer s.rx && knownApid s.cfg w then .ccsdsFormat else .ccsdsApid)
    .ok (.goesOn (s.withRx { s.rx with idleCnt := 0 }))
  else .ok (.goesOn s)

/-- CMD at c = 6, the length check (rule R152). -/
def cmdLengthCheck (s : State) (w : Word) : Res After :=
  if cmdLengthBad s.cfg w then do
    let s ← raiseAlarm s .ccsdsLength
    let s ← excise s
    .ok (.goesOn (toCmdStart s))
  else
    .ok (.goesOn (s.withRx { s.rx with cmdLen := w, cmdPad := cmdPadFlag w, cmdEnd := cmdEndOf w }))

/-- CMD completion (rule R157). -/
def completeCommand (s : State) : Res After :=
  if s.rx.cmdC = s.rx.cmdEnd then do
    let s ← recordWrite s s.rx.cmdK ⟨recordOffset s.rx.cmdStartWp, (s.rx.cmdLen - 4).setWidth 8⟩
    .ok (.goesOn (toCmdStart (s.withRx { s.rx with cmdK := s.rx.cmdK + 1 })))
  else .ok (.goesOn s)

/-- CMD at c ≥ 11 (rules R156, R157): the byte is stored unless it is the pad byte, then the completion check. -/
def cmdBody (s : State) (b : Byte) : Res After :=
  if s.rx.cmdC.toNat ≤ s.rx.cmdLen.toNat + 7 then
    if s.cfg.scratchSize ≤ s.rx.wp then abortWith s .itfLength
    else do
      let s ← scratchWrite s s.rx.wp b
      completeCommand (s.withRx { s.rx with wp := s.rx.wp + 1 })
  else completeCommand s

/-- CMD (rule R155), by the command byte counter. -/
def cmdRule (s : State) (b : Byte) (w : Word) : Res After :=
  let s := s.withRx { s.rx with cmdC := s.rx.cmdC + 1 }
  if s.rx.cmdC = 6 then cmdLengthCheck s w
  else if 11 ≤ s.rx.cmdC.toNat then cmdBody s b
  else .ok (.goesOn s)

/-! ### The meanings -/

/-- RXBYTE in a named state: the operation exists only while the receiver is in that state (rule R96, log entry 9). -/
def inRxState (st : RxState) (s : State) (r : Res State) : Host.Outcome State Fault Refusal :=
  if s.rx.rxState = st then toOutcome r else .refused .rxStateMismatch

/-- RXBYTE.IDLE (rule R143). -/
def execRxByteIdle (b : Byte) (s : State) : Host.Outcome State Fault Refusal := inRxState .idle s (idleByte s b)

/-- RXBYTE.LENGTH (rules R141, R144, R145). -/
def execRxByteLength (b : Byte) (s : State) : Host.Outcome State Fault Refusal :=
  inRxState .length s (lockedByte lengthRule s b)

/-- RXBYTE.TIME_START (rules R141, R146, R147). -/
def execRxByteTimeStart (b : Byte) (s : State) : Host.Outcome State Fault Refusal :=
  inRxState .timeStart s (lockedByte timeStartRule s b)

/-- RXBYTE.TIME (rules R141, R148, R149, R150). -/
def execRxByteTime (b : Byte) (s : State) : Host.Outcome State Fault Refusal :=
  inRxState .time s (lockedByte timeRule s b)

/-- RXBYTE.CMD_START (rules R141, R151). -/
def execRxByteCmdStart (b : Byte) (s : State) : Host.Outcome State Fault Refusal :=
  inRxState .cmdStart s (lockedByte cmdStartRule s b)

/-- RXBYTE.CMD (rules R141, R152, R155, R156, R157). -/
def execRxByteCmd (b : Byte) (s : State) : Host.Outcome State Fault Refusal :=
  inRxState .cmd s (lockedByte cmdRule s b)

/-- RXRESET (rule R140). -/
def execRxReset (s : State) : Host.Outcome State Fault Refusal := .next (rxReset s)

end Sys2Proof.Machine
end

