-- ==== Sys2Proof/Machine/Telemetry.lean ====
section
/-! DEFINITION. The meanings of the dispatcher and of the telemetry assembler (43_dispatch_telemetry.md). -/

namespace Sys2Proof.Machine

/-- DISPATCH (rule R220). -/
def execDispatch (s : State) : Host.Outcome State Fault Refusal := toOutcome (dispatch s)

/-- SENDSTATUS (rule R229). -/
def execSendStatus (s : State) : Host.Outcome State Fault Refusal := toOutcome (sendStatus s)

/-- SENDECHO (rule R230). -/
def execSendEcho (opcode : Byte) (args : List Byte) (result : Byte) (s : State) : Host.Outcome State Fault Refusal :=
  toOutcome (sendEcho s opcode args result)

/-- SENDALARM (rule R233). -/
def execSendAlarm (code : AlarmCode) (s : State) : Host.Outcome State Fault Refusal := toOutcome (raiseAlarm s code)

end Sys2Proof.Machine
end

