-- ==== Sys2Proof/Machine/Dispatch.lean ====
section
/-! DEFINITION. One arm per operation of the block. -/

namespace Sys2Proof.Machine

def exec (i : Instr) (s : State) : Host.Outcome State Fault Refusal :=
  match i with
  | .reset => Sys2Proof.Machine.execReset s
  | .rxByteIdle b => Sys2Proof.Machine.execRxByteIdle b s
  | .rxByteLength b => Sys2Proof.Machine.execRxByteLength b s
  | .rxByteTimeStart b => Sys2Proof.Machine.execRxByteTimeStart b s
  | .rxByteTime b => Sys2Proof.Machine.execRxByteTime b s
  | .rxByteCmdStart b => Sys2Proof.Machine.execRxByteCmdStart b s
  | .rxByteCmd b => Sys2Proof.Machine.execRxByteCmd b s
  | .buildTable => Sys2Proof.Machine.execBuildTable s
  | .crcUpdate c b => Sys2Proof.Machine.execCrcUpdate c b s
  | .seqAdvance => Sys2Proof.Machine.execSeqAdvance s
  | .seqReset => Sys2Proof.Machine.execSeqReset s
  | .hbToggle => Sys2Proof.Machine.execHbToggle s
  | .pwrToggle => Sys2Proof.Machine.execPwrToggle s
  | .metAdvance => Sys2Proof.Machine.execMetAdvance s
  | .dispatch => Sys2Proof.Machine.execDispatch s
  | .sendStatus => Sys2Proof.Machine.execSendStatus s
  | .sendEcho opcode args result => Sys2Proof.Machine.execSendEcho opcode args result s
  | .sendAlarm code => Sys2Proof.Machine.execSendAlarm code s
  | .rxReset => Sys2Proof.Machine.execRxReset s
  | .crcResidueCheck c => Sys2Proof.Machine.execCrcResidueCheck c s

end Sys2Proof.Machine
end

