-- ==== Sys2Proof/Machine/Step.lean ====
section
/-! DEFINITION. The step: "The block moves only on an operation taken from its input port" (rule R21). -/

namespace Sys2Proof.Machine

/-- Runs one operation: decode it, refuse a reserved word by name (rule R97), or execute it. -/
def runOperation (o : Operation) (s : State) : Host.Outcome State Fault Refusal :=
  match decode o with
  | .ok i => exec i s
  | .error why => .refused (.reservedWord why)

/-- One step. The oldest item at the port is consumed (rule R68) and run to completion; with nothing there the block does not
move (rule R21). An operation named to the model by its word (log entry 3) is run alone, before the port is looked at; none is
in any run from reset. -/
def step (s : State) : Host.Outcome State Fault Refusal :=
  match s.probe with
  | some o => runOperation o (s.withProbe none)
  | none =>
    match s.inbound with
    | [] => .next s
    | item :: rest => runOperation (portOperation s.rx.rxState item) (s.withInbound rest)

/-- The state with the operation of the low `nbits` bits of `w`, zero operands beside it, named to the model for the next step
(log entry 1). An RxByte word names the receiver's state (rule R96), so for such a word the receiver is put into the state the
word names. -/
def State.withFetchWord (s : State) (nbits w : Nat) : State :=
  let o := operationOfTableWord nbits w
  { s with probe := some o, rx := { s.rx with rxState := rxStateFor o.word s.rx.rxState } }

end Sys2Proof.Machine
end

