-- ==== Sys2Proof/Safety.lean ====
section
/-! DEFINITION. The terms in which claims about the machine are stated: the invariant of its states, the conditions under
which it can send, what a run of operations is, and a reference account of packets, CRC and sends written in plain arithmetic
and bit by bit, apart from the table engine and the bit fields of the model. -/

namespace Sys2Proof.Machine

/-! ### The reference CRC: one bit at a time, most significant bit first (rule R123: "MSB-first with no input or output
reflection and no final XOR"; 95_test_vectors.md: "a separate bit-by-bit CRC-16") -/

/-- One message bit fed into the 16-bit remainder. -/
def refCrcBit (c : Word) (x : Bool) : Word := if c.getLsbD 15 != x then (c <<< 1) ^^^ 0x1021 else c <<< 1

/-- One message byte, bit 7 first. -/
def refCrcByte (c : Word) (b : Byte) : Word :=
  [7, 6, 5, 4, 3, 2, 1, 0].foldl (fun c i => refCrcBit c (b.getLsbD i)) c

/-- The bytes of a span, in order. -/
def refCrc (seed : Word) (d : List Byte) : Word := d.foldl refCrcByte seed

/-! ### The reference packet, every field by division (rule R87) -/

/-- 1 for a set bit, else 0. -/
def bitNat (b : Bool) : Nat := if b then 1 else 0

/-- Byte `i` of a number written big-endian, counted from the least significant byte. -/
def numByte (v i : Nat) : Byte := BitVec.ofNat 8 (v / 256 ^ i % 256)

/-- Bytes 4..15 of a packet of total size `total` (rule R87). -/
def refHead (inst : Instrument) (apid total : Nat) : List Byte :=
  [BitVec.ofNat 8 (bitNat inst.hb * 128 + bitNat inst.pw * 64 + (total - 6) / 256 % 8), numByte (total - 6) 0,
   BitVec.ofNat 8 (8 + apid / 256), numByte apid 0,
   BitVec.ofNat 8 (192 + inst.seq.toNat / 256), numByte inst.seq.toNat 0,
   numByte (total - 16) 1, numByte (total - 16) 0,
   numByte inst.met.toNat 3, numByte inst.met.toNat 2, numByte inst.met.toNat 1, numByte inst.met.toNat 0]

/-- A whole packet (rule R87): sync, bytes 4..15, payload, and the CRC over bytes 4..T-3, high byte first. -/
def refPacket (inst : Instrument) (apid : Nat) (payload : List Byte) : List Byte :=
  let body := refHead inst apid (payload.length + 18) ++ payload
  let c := (refCrc 0xFFFF body).toNat
  [0xFE, 0xFA, 0x30, 0xC8] ++ body ++ [numByte c 1, numByte c 0]

/-- The payload of an Echo (rule R89). -/
def refEchoPayload (opcode : Byte) (args : List Byte) (result : Byte) : List Byte :=
  if args.length % 2 = 0 then result :: opcode :: args else result :: opcode :: (args ++ [0])

/-! ### The reference send (rule R228) and time advance (rules R204, R205) -/

/-- The transport after one flush: it drained one packet if one was in flight. -/
def drainsAfter (l : Link) : Option Nat := if l.inFlight then l.drains.map (· - 1) else l.drains

/-- The state after one send of `payload` (rule R228): the sequence count advances, the packet is written to the front of
`outbuf`, joins the end of the outbound stream and is in flight. Nothing else changes. -/
def afterSend (s : State) (kind : PacketKind) (apid : Nat) (payload : List Byte) : State :=
  let inst := { s.inst with seq := s.inst.seq + 1 }
  let bytes := refPacket inst apid payload
  { s with
    inst := inst
    link := { outbuf := bytes ++ s.link.outbuf.drop bytes.length
              outbound := s.link.outbound ++ [⟨kind, bytes⟩]
              inFlight := true
              drains := drainsAfter s.link } }

/-- The state after an alarm with the numeric code `code` (rules R90, R233, R260). -/
def afterAlarm (s : State) (code : Byte) : State := afterSend s .alarm 0x302 [code, 0, 0, 0]

/-- The state with the heartbeat bit toggled (rule R234). -/
def heartbeatToggled (s : State) : State := { s with inst := { s.inst with hb := !s.inst.hb } }

/-- The state after a Status (rules R229, R234). -/
def afterStatus (s : State) : State := heartbeatToggled (afterSend s .status 0x305 (List.replicate 122 0))

/-- The state after an Echo (rules R230, R234). -/
def afterEcho (s : State) (opcode : Byte) (args : List Byte) (result : Byte) : State :=
  heartbeatToggled (afterSend s .echo 0x301 (refEchoPayload opcode args result))

/-- The state after the update of `met` and the count of `sic`, before a Status that may be due (rules R204, R205). -/
def timeCounted (s : State) : State :=
  { s with inst := { s.inst with
      met := if s.inst.timeReceived then s.inst.pendingTime else BitVec.ofNat 32 (s.inst.met.toNat + 1)
      timeReceived := false
      sic := BitVec.ofNat 32 (s.inst.sic.toNat + 1) } }

/-- The state after a time advance (rules R204, R205): a Status is sent and `sic` cleared when `sic` reaches a nonzero
`STATUS_INTERVAL`. -/
def afterTimeAdvance (s : State) : State :=
  let u := timeCounted s
  if s.cfg.statusInterval ≠ 0 ∧ u.inst.sic = s.cfg.statusInterval then
    let v := afterStatus u
    { v with inst := { v.inst with sic := 0 } }
  else u

/-- The state with the per-frame state cleared (rules R140, R281). -/
def frameCleared (s : State) : State := { s with rx := rxCleared s.cfg }

/-- The state after a frame-level abort with the numeric code `code` (rule R263). -/
def afterAbort (s : State) (code : Byte) : State := frameCleared (afterAlarm s code)

/-- The per-frame state after a byte at which nothing but rule R141 happens. -/
def byteCounted (rx : Receiver) (b : Byte) : Receiver :=
  { rx with pos := rx.pos + 1, crc := refCrcByte rx.crc b, last := b }

/-- The window of the previous and the current byte as a number (rule R10). -/
def windowNat (rx : Receiver) (b : Byte) : Nat := rx.last.toNat * 256 + b.toNat

/-- The low 11 bits of a header word, its APID (rule R82), are those of one of the two markers (rule R159). -/
abbrev apidKnown (cfg : Config) (h : Nat) : Prop :=
  h % 2048 = cfg.cmdMarker.toNat % 2048 ∨ h % 2048 = cfg.timeMarker.toNat % 2048

/-- The `n` bytes of the scratch buffer from index `i` on. -/
def scratchBytes (m : Memory) (i n : Nat) : List Byte := (List.range n).map fun t => Memory.read m (i + t)

/-- The state after an Echo for each of the records, in order, each from the opcode and argument bytes it points to in `m`
(rule R220). -/
def afterEchoes (m : Memory) : List CmdRecord → State → State
  | [], s => s
  | r :: rs, s =>
    afterEchoes m rs (afterEcho s (Memory.read m r.off.toNat) (scratchBytes m (r.off.toNat + 1) r.cnt.toNat) 0)

/-- A byte that neither overflows the frame (rule R142) nor ends it (rule R158). -/
abbrev midFrame (s : State) : Prop :=
  s.rx.pos + 1 ≤ s.cfg.maxPacketSize ∧ ¬ (s.rx.lenOk = true ∧ s.rx.pos + 1 = s.rx.frameEnd.toNat)

/-- The per-frame state of a command that begins with the byte `b`, its byte counter at `c` (rule R154). -/
def commandBegun (rx : Receiver) (b : Byte) (c : Word) : Receiver :=
  { byteCounted rx b with
    rxState := .cmd, cmdC := c, cmdStartWp := rx.wp, cmdLen := 0, cmdPad := false, cmdEnd := 0, idleCnt := 0 }

/-- The per-frame state when the byte `b` leads to CMD_START. -/
def searchBegun (rx : Receiver) (b : Byte) : Receiver :=
  { byteCounted rx b with rxState := .cmdStart, idleCnt := 0 }

/-! ### Reserved operation words -/

/-- The reserved classes of rule R97, in the order of the rule, by the fields of the word: selector 0xF; an RxByte state 6 or
7; a nonzero state field elsewhere; an alarm code outside 1..5; bit 11; data bits where there is no data operand. -/
abbrev ReservedWord (w : Nat) : Prop :=
  w / 4096 = 15 ∨
    (w / 4096 = 1 ∧ 6 ≤ w / 256 % 8) ∨
    (w / 4096 ≠ 1 ∧ w / 256 % 8 ≠ 0) ∨
    (w / 4096 = 12 ∧ (w % 256 = 0 ∨ 6 ≤ w % 256)) ∨
    w / 2048 % 2 = 1 ∨
    (w / 4096 ≠ 1 ∧ w / 4096 ≠ 12 ∧ w % 256 ≠ 0)

/-! ### When the machine can send -/

/-- The flush of the next send ends (rule R285): nothing is in flight, or the transport still drains. -/
abbrev State.CanSend (s : State) : Prop := s.link.inFlight = false ∨ s.link.drains ≠ some 0

/-- The kind of packet that an operation sends by itself, for the three that build one packet each (rules R229, R230, R233). -/
def sentKind : Instr → Option PacketKind
  | .sendStatus => some .status
  | .sendEcho _ _ _ => some .echo
  | .sendAlarm _ => some .alarm
  | .reset | .rxByteIdle _ | .rxByteLength _ | .rxByteTimeStart _ | .rxByteTime _ | .rxByteCmdStart _ | .rxByteCmd _ => none
  | .buildTable | .crcUpdate _ _ | .crcResidueCheck _ | .rxReset | .dispatch => none
  | .seqAdvance | .seqReset | .hbToggle | .pwrToggle | .metAdvance => none

/-- The number of sends among `kinds` that toggle the heartbeat: all but the alarms (rule R234). -/
def heartbeats (kinds : List PacketKind) : Nat := kinds.countP (· ≠ .alarm)

/-- What rule R283 asks of the host and of initialisation: the transport drains, and the CRC table is the built one. -/
abbrev State.Ready (s : State) : Prop := s.link.drains = none ∧ s.crcTable = builtCrcTable

/-! ### The invariant of the states -/

/-- A sync-locked receiver: past the sync, `pos` within the overflow guard. -/
abbrev guardInv (cfg : Config) (rx : Receiver) : Prop := 4 ≤ rx.pos ∧ rx.pos ≤ max 4 cfg.maxPacketSize

/-- After the length field was accepted (rule R145), the frame has not ended. -/
abbrev lengthInv (cfg : Config) (rx : Receiver) : Prop :=
  rx.lenOk = true ∧ rx.pos < rx.frameEnd.toNat ∧ 6 + cfg.itfLenMin ≤ rx.frameEnd.toNat ∧
    rx.frameEnd.toNat ≤ 6 + cfg.itfLenMax

/-- No command of the frame has been recorded or stored. -/
abbrev noCommandInv (rx : Receiver) : Prop := rx.cmdK = 0 ∧ rx.wp = 0

/-- A command in progress: before its length check nothing is stored, after it the counters agree with the declared length
and `wp` has moved past the body bytes read so far (rules R152 to R157). -/
abbrev commandInv (cfg : Config) (rx : Receiver) : Prop :=
  rx.cmdK < cfg.maxCmds ∧ 2 ≤ rx.cmdC.toNat ∧ rx.cmdStartWp ≤ (maxArgs + 1) * rx.cmdK ∧
    (rx.cmdC.toNat < 6 → rx.wp = rx.cmdStartWp) ∧
    (6 ≤ rx.cmdC.toNat →
      cfg.minCmd ≤ rx.cmdLen.toNat ∧ rx.cmdLen.toNat ≤ cfg.maxCmd ∧
        rx.cmdEnd.toNat = rx.cmdLen.toNat + 7 + (if rx.cmdLen.toNat % 2 = 0 then 1 else 0) ∧
        rx.cmdC.toNat < rx.cmdEnd.toNat ∧
        rx.wp = rx.cmdStartWp + (min rx.cmdC.toNat (rx.cmdLen.toNat + 7) - 10))

/-- What the receiver's registers satisfy in each state of the receiver (rules R140 to R157). -/
abbrev phaseInv (cfg : Config) (rx : Receiver) : Prop :=
  (rx.rxState = .idle → rx = { rxCleared cfg with syncWin := rx.syncWin }) ∧
  (rx.rxState = .length → guardInv cfg rx ∧ rx.pos ≤ 5 ∧ rx.lenOk = false ∧ noCommandInv rx) ∧
  (rx.rxState = .timeStart → guardInv cfg rx ∧ lengthInv cfg rx ∧ 6 ≤ rx.pos ∧ rx.pos ≤ 9 ∧ noCommandInv rx) ∧
  (rx.rxState = .time → guardInv cfg rx ∧ lengthInv cfg rx ∧ 10 ≤ rx.pos ∧ rx.pos ≤ 47 ∧ noCommandInv rx) ∧
  (rx.rxState = .cmdStart →
    guardInv cfg rx ∧ lengthInv cfg rx ∧ 10 ≤ rx.pos ∧ rx.idleCnt.toNat ≤ 2 ∧ rx.wp ≤ (maxArgs + 1) * rx.cmdK) ∧
  (rx.rxState = .cmd → guardInv cfg rx ∧ lengthInv cfg rx ∧ 10 ≤ rx.pos ∧ commandInv cfg rx)

/-- The scratch buffer: canonical, nothing stored at or above `wp`, `wp` within the buffer (rules R25, R61). -/
abbrev scratchInv (cfg : Config) (rx : Receiver) : Prop :=
  Memory.wf rx.scratch = true ∧ (∀ c ∈ rx.scratch, c.1 < rx.wp) ∧ rx.wp ≤ cfg.scratchSize

/-- The record file: `MAX_CMDS` entries, and every live record inside what is stored (rules R26, R61: "every live record
satisfies `rec_off[j] + rec_cnt[j] + 1 <= wp <= SCRATCH_SIZE`"). -/
abbrev recordsInv (cfg : Config) (rx : Receiver) : Prop :=
  rx.recs.length = cfg.maxCmds ∧ rx.cmdK ≤ cfg.maxCmds ∧
    ∀ r ∈ rx.recs.take rx.cmdK, r.off.toNat + r.cnt.toNat + 1 ≤ rx.wp ∧ r.cnt.toNat ≤ maxArgs

/-- The invariant of the machine's states: it holds after reset with legal parameters (rule R5) and every step keeps it. -/
structure State.Inv (s : State) : Prop where
  /-- The constraints of rule R5. -/
  legal : s.cfg.Legal
  /-- The table is built before it is read (rules R29, R282). -/
  table : s.crcTable = builtCrcTable
  /-- The outbound buffer has its 140 bytes (rule R30). -/
  outbuf : s.link.outbuf.length = statusTotal
  /-- "With N > 0, `sic` stays in 0..N−1 between steps" (rule R205). -/
  status : s.cfg.statusInterval ≠ 0 → s.inst.sic.toNat < s.cfg.statusInterval.toNat
  scratch : scratchInv s.cfg s.rx
  records : recordsInv s.cfg s.rx
  phase : phaseInv s.cfg s.rx

/-! ### Runs -/

/-- A list of operations executed one after the other, up to the first stop. -/
def execAll : List Instr → State → Host.Outcome State Fault Refusal
  | [], s => .next s
  | i :: is, s =>
    match exec i s with
    | .next t => execAll is t
    | .fault f => .fault f
    | .refused r => .refused r

/-- A safe outcome: the machine goes on, in a state that meets the invariant. -/
def SafeOutcome : Host.Outcome State Fault Refusal → Prop
  | .next t => t.Inv
  | .fault _ | .refused _ => False

end Sys2Proof.Machine
end

