-- ==== Sys2Proof/Certificates/Slice0/Obligations.lean ====
section
/-! DEFINITION. The statements for the provers. Each says which rule of spec/ it formalises. A result is stated as an equation
on the whole next state (or on all its parts), so that it says what changes and that nothing else does. -/

open Sys2Proof Sys2Proof.Machine

/-! ### Operation words (30_encoding.md) -/

/-- Rule R96: decoding the encoding of an operation gives it back, for every operation with its operands in range. -/
def Obligations.DecodeOfEncodeGivesTheOperation : Prop :=
  ∀ i : Instr, i.WellFormed = true → decode (encode i) = .ok i

/-- Rules R96, R97: an operation is decoded from its own encoding only, so every bit of the word counts. That the operands
beside the word must have the operation's shape, and an Echo at most 10 arguments, for the word to decode is the model's choice
(log entries 4 and 10). -/
def Obligations.DecodedOperationHasItsOwnEncoding : Prop :=
  ∀ (o : Operation) (i : Instr), decode o = .ok i → encode i = o ∧ i.WellFormed = true

/-- Rule R97: each reserved class of operation words is refused by name, and no operation is encoded as one.
The word is named to the model (log entry 3). -/
def Obligations.ReservedWordsAreRefusedByName : Prop :=
  (∀ (s : State) (o : Operation), s.probe = some o → ReservedWord o.word.toNat →
    ∃ why, step s = .refused (.reservedWord why)) ∧
  ∀ i : Instr, ¬ ReservedWord (encode i).word.toNat

/-- Vector V28 of 95_test_vectors.md: what its operation words decode to. -/
def Obligations.SampleWordsDecode : Prop :=
  decode ⟨0x0000, .nothing⟩ = .ok .reset ∧
  decode ⟨0x10FE, .nothing⟩ = .ok (.rxByteIdle 0xFE) ∧
  decode ⟨0x150F, .nothing⟩ = .ok (.rxByteCmd 0x0F) ∧
  decode ⟨0x2000, .nothing⟩ = .ok .buildTable ∧
  decode ⟨0x3000, .crcByte 0x1234 0x56⟩ = .ok (.crcUpdate 0x1234 0x56) ∧
  decode ⟨0xC002, .nothing⟩ = .ok (.sendAlarm .itfChecksum)

/-! ### The CRC engine (40_crc_engine.md) -/

/-- Rules R120, R121, R123: the table-driven CRC of every span, from every seed, is the bit-serial CRC with polynomial 0x1021,
most significant bit first, no reflection, no final XOR. -/
def Obligations.TableEngineEqualsBitSerialCrc : Prop :=
  ∀ (seed : Word) (d : List Byte), crcSpan builtCrcTable seed d = refCrc seed d

/-- Rule R124, the residue law, with the rule's example of a trailer in the wrong byte order. -/
def Obligations.ResidueLaw : Prop :=
  (∀ d : List Byte,
    let t := (crcSpan builtCrcTable 0xFFFF d).toNat
    crcSpan builtCrcTable 0xFFFF (d ++ [numByte t 1, numByte t 0]) = 0x0000) ∧
  crcSpan builtCrcTable 0xFFFF [0x31, 0x32, 0x33, 0x34, 0x35, 0x36, 0x37, 0x38, 0x39] = 0x29B1 ∧
  crcSpan builtCrcTable 0xFFFF [0x31, 0x32, 0x33, 0x34, 0x35, 0x36, 0x37, 0x38, 0x39, 0xB1, 0x29] = 0x93F3

/-- Rule R125: a correct trailer with one bit flipped leaves the CRC of the error pattern, which is not zero; the flip of the
last bit leaves 0x1021. -/
def Obligations.SingleTrailerBitErrorIsDetected : Prop :=
  ∀ (d : List Byte) (j : Nat), j < 16 →
    let t := (crcSpan builtCrcTable 0xFFFF d ^^^ BitVec.ofNat 16 (2 ^ j)).toNat
    let residue := crcSpan builtCrcTable 0xFFFF (d ++ [numByte t 1, numByte t 0])
    residue = crcSpan builtCrcTable 0 [numByte (2 ^ j) 1, numByte (2 ^ j) 0] ∧ residue ≠ 0 ∧
      (j = 0 → residue = 0x1021)

/-- Rule R120: BUILDTABLE writes the table and nothing else; entry i is the bit-serial remainder of byte i from zero; the
table is XOR-linear. -/
def Obligations.BuildTableFillsTheTable : Prop :=
  (∀ s : State, exec .buildTable s = .next { s with crcTable := builtCrcTable }) ∧
  (∀ i : Byte, tableRead builtCrcTable i = refCrcByte 0 i) ∧
  tableRead builtCrcTable 0 = 0x0000 ∧ tableRead builtCrcTable 1 = 0x1021 ∧
  tableRead builtCrcTable 0x80 = 0x9188 ∧ tableRead builtCrcTable 0xFF = 0x1EF0 ∧
  ∀ i j : Byte, tableRead builtCrcTable (i ^^^ j) = tableRead builtCrcTable i ^^^ tableRead builtCrcTable j

/-- Rule R121: CRCUPDATE returns the shifted checksum XOR the entry that the top byte XOR the input byte picks, and writes no
state of the block; `returned` is the model's own field (log entry 8). -/
def Obligations.CrcUpdateReturnsTheFold : Prop :=
  (∀ (c : Word) (b : Byte) (s : State),
    exec (.crcUpdate c b) s = .next { s with
      returned := .crc (BitVec.ofNat 16 (c.toNat * 256 % 65536) ^^^
        tableRead s.crcTable (BitVec.ofNat 8 (c.toNat / 256) ^^^ b)) }) ∧
  (∀ (c : Word) (s : State), s.crcTable = builtCrcTable →
    exec (.crcUpdate c (BitVec.ofNat 8 (c.toNat / 256))) s =
      .next { s with returned := .crc (BitVec.ofNat 16 (c.toNat * 256)) })

/-- Rule R122: CRCRESIDUECHECK passes at 0x0000 and at nothing else, and writes no state of the block; `returned` is the
model's own field (log entry 8). -/
def Obligations.ResidueCheckPassesExactlyAtZero : Prop :=
  (∀ s : State, exec (.crcResidueCheck 0) s = .next { s with returned := .residue true }) ∧
  (∀ (c : Word) (s : State), c ≠ 0 → exec (.crcResidueCheck c) s = .next { s with returned := .residue false })

/-! ### The instrument state (42_instrument_state.md) -/

/-- Rules R200, R201: SEQADVANCE counts mod 2^14, SEQRESET clears; each writes `seq` only. -/
def Obligations.SequenceCountOperations : Prop :=
  ∀ s : State,
    exec .seqAdvance s =
      .next { s with inst := { s.inst with seq := BitVec.ofNat 14 ((s.inst.seq.toNat + 1) % 16384) } } ∧
    exec .seqReset s = .next { s with inst := { s.inst with seq := 0 } }

/-- Rules R202, R203: HBTOGGLE and PWRTOGGLE each flip their own bit and nothing else. -/
def Obligations.BitToggleOperations : Prop :=
  ∀ s : State,
    exec .hbToggle s = .next { s with inst := { s.inst with hb := !s.inst.hb } } ∧
    exec .pwrToggle s = .next { s with inst := { s.inst with pw := !s.inst.pw } }

/-- Rules R204, R205: METADVANCE takes a capture once or counts up, counts `sic`, and when `sic` reaches a nonzero
`STATUS_INTERVAL` sends one Status that carries the new `met`, toggles the heartbeat and clears `sic`. A Status that the
transport does not let out holds the step (rule R285: the block is stuck inside it, which is no fault of the block); the name
`heldInWaitDrained` for a step that never ends is the model's choice (log entry 6). -/
def Obligations.MetAdvanceResult : Prop :=
  ∀ s : State,
    let u := timeCounted s
    let due := s.cfg.statusInterval ≠ 0 ∧ u.inst.sic = s.cfg.statusInterval
    (¬ due → exec .metAdvance s = .next u) ∧
    (due → s.crcTable = builtCrcTable → s.CanSend →
      exec .metAdvance s =
        .next { afterStatus u with inst := { (afterStatus u).inst with sic := 0 } }) ∧
    (due → ¬ s.CanSend → exec .metAdvance s = .fault .heldInWaitDrained)

/-- Rule R205 and property E7: from `sic` = 0, N time advances with N = `STATUS_INTERVAL` ≠ 0 send exactly one Status and
leave `sic` = 0; with `STATUS_INTERVAL` = 0 no number of advances sends anything. -/
def Obligations.OneStatusPerInterval : Prop :=
  ∀ s : State, s.Ready →
    (s.cfg.statusInterval ≠ 0 → s.inst.sic = 0 →
      ∃ t p, execAll (List.replicate s.cfg.statusInterval.toNat .metAdvance) s = .next t ∧
        t.link.outbound = s.link.outbound ++ [p] ∧ p.kind = .status ∧ t.inst.sic = 0) ∧
    (s.cfg.statusInterval = 0 → ∀ k : Nat,
      ∃ t, execAll (List.replicate k .metAdvance) s = .next t ∧ t.link = s.link)

/-! ### Telemetry (43_dispatch_telemetry.md, 60_exceptions.md) -/

/-- Rule R233 with rules R87, R90, R91, R228: SENDALARM advances `seq`, hands over one 22-byte packet whose byte 16 is the
code, and changes nothing else; the heartbeat is not toggled. -/
def Obligations.SendAlarmResult : Prop :=
  ∀ s : State, s.crcTable = builtCrcTable → s.CanSend →
    exec (.sendAlarm .itfLength) s = .next (afterAlarm s 1) ∧
    exec (.sendAlarm .itfChecksum) s = .next (afterAlarm s 2) ∧
    exec (.sendAlarm .ccsdsFormat) s = .next (afterAlarm s 3) ∧
    exec (.sendAlarm .ccsdsApid) s = .next (afterAlarm s 4) ∧
    exec (.sendAlarm .ccsdsLength) s = .next (afterAlarm s 5)

/-- Rule R229 with rules R87, R88, R228, R234: SENDSTATUS. -/
def Obligations.SendStatusResult : Prop :=
  ∀ s : State, s.crcTable = builtCrcTable → s.CanSend → exec .sendStatus s = .next (afterStatus s)

/-- Rules R230, R231 with rules R87, R89, R228, R234: SENDECHO, for every operand in range. -/
def Obligations.SendEchoResult : Prop :=
  ∀ (s : State) (opcode : Byte) (args : List Byte) (result : Byte),
    s.crcTable = builtCrcTable → s.CanSend → args.length ≤ 10 →
      exec (.sendEcho opcode args result) s = .next (afterEcho s opcode args result)

/-- Rule R230's bound on the arguments: more than 10 are refused by the decoder, and a send of them stops by name
(DESIGN CHOICE, log entry 10). -/
def Obligations.EchoArgumentsOutOfRangeStop : Prop :=
  ∀ (s : State) (opcode : Byte) (args : List Byte) (result : Byte), 10 < args.length →
    decode ⟨0xB000, .echo opcode args result⟩ = .error .tooManyArgs ∧
    exec (.sendEcho opcode args result) s = .fault .echoArgsOutOfRange

/-- Rules R66, R285 and item I9: with a packet in flight and a transport that never drains again, no send gets past
`WaitDrained`. The transport's counter and the name of the stop are the model's (log entry 6). -/
def Obligations.StalledTransportHoldsEverySend : Prop :=
  ∀ s : State, s.link.inFlight = true → s.link.drains = some 0 →
    exec .sendStatus s = .fault .heldInWaitDrained ∧
    (∀ code, exec (.sendAlarm code) s = .fault .heldInWaitDrained) ∧
    (∀ opcode args result, args.length ≤ 10 →
      exec (.sendEcho opcode args result) s = .fault .heldInWaitDrained)

/-- Rule R227 with the totals of rules R229, R230, R233: every packet sent has its size, opens with the sync marker, and its
bytes from byte 4 on leave a zero residue. -/
def Obligations.SentPacketsCarryZeroResidue : Prop :=
  ∀ (s : State) (i : Instr) (total : Nat), s.crcTable = builtCrcTable → s.CanSend →
    (i = .sendStatus ∧ total = 140 ∨ (∃ code, i = .sendAlarm code) ∧ total = 22 ∨
      ∃ opcode args result, i = .sendEcho opcode args result ∧ args.length ≤ 10 ∧
        total = 20 + args.length + args.length % 2) →
    ∃ t p, exec i s = .next t ∧ t.link.outbound = s.link.outbound ++ [p] ∧ p.bytes.length = total ∧
      p.bytes.take 4 = [0xFE, 0xFA, 0x30, 0xC8] ∧ crcSpan builtCrcTable 0xFFFF (p.bytes.drop 4) = 0

/-- Rules R200, R228, R234 and property E6: n sends of any kinds in a row advance `seq` by n mod 2^14, so 16384 of them bring
it back; they add their n packets, in order, to the end of the stream, toggle the heartbeat once per Status and Echo, and leave
everything else but `outbuf` and the packet in flight as it was. -/
def Obligations.SequenceCountsTheSends : Prop :=
  ∀ (is : List Instr) (s : State), s.Ready → (∀ i ∈ is, (sentKind i).isSome = true ∧ i.WellFormed = true) →
    ∃ t ps, execAll is s = .next t ∧ t.link.outbound = s.link.outbound ++ ps ∧
      ps.map Packet.kind = is.filterMap sentKind ∧
      t.inst = { s.inst with
        seq := BitVec.ofNat 14 (s.inst.seq.toNat + is.length)
        hb := s.inst.hb != decide (heartbeats (is.filterMap sentKind) % 2 = 1) } ∧
      (is.length = 16384 → t.inst.seq = s.inst.seq) ∧
      t.rx = s.rx ∧ t.cfg = s.cfg ∧ t.crcTable = s.crcTable ∧ t.inbound = s.inbound ∧ t.returned = s.returned ∧
      t.probe = s.probe ∧ t.freeCount = s.freeCount ∧ t.link.drains = s.link.drains

/-- Rules R200, R202, R228, R234: whatever operation goes on, `seq` has moved by the number of packets it added to the stream,
and the heartbeat by the number of Status and Echo packets among them. RESET and the operations on `seq` and `hb` themselves
are the exceptions. -/
def Obligations.EveryPacketIsCounted : Prop :=
  ∀ (i : Instr) (s t : State), i ≠ .reset → i ≠ .seqAdvance → i ≠ .seqReset → i ≠ .hbToggle → exec i s = .next t →
    ∃ ps, t.link.outbound = s.link.outbound ++ ps ∧
      t.inst.seq = BitVec.ofNat 14 (s.inst.seq.toNat + ps.length) ∧
      t.inst.hb = (s.inst.hb != decide (heartbeats (ps.map Packet.kind) % 2 = 1))

/-- Rule R220: DISPATCH sends an Echo for each record 0..cmd_k-1, in record order, with the opcode and arguments the record
points to and a zero result; the records themselves are not changed. -/
def Obligations.DispatchResult : Prop :=
  ∀ s : State, s.Ready → s.rx.cmdK ≤ s.rx.recs.length →
    (∀ r ∈ s.rx.recs.take s.rx.cmdK, r.off.toNat + r.cnt.toNat + 1 ≤ s.cfg.scratchSize ∧ r.cnt.toNat ≤ 10) →
    exec .dispatch s = .next (afterEchoes s.rx.scratch (s.rx.recs.take s.rx.cmdK) s)

/-- Rules R220, R234: whenever DISPATCH goes on, it has sent exactly cmd_k packets, all Echoes, advanced `seq` by cmd_k and
toggled the heartbeat cmd_k times. -/
def Obligations.DispatchSendsOneEchoPerRecord : Prop :=
  ∀ s t : State, exec .dispatch s = .next t →
    (∃ ps, t.link.outbound = s.link.outbound ++ ps ∧ ps.length = s.rx.cmdK ∧ ∀ p ∈ ps, p.kind = .echo) ∧
    t.inst = { s.inst with
      seq := BitVec.ofNat 14 (s.inst.seq.toNat + s.rx.cmdK)
      hb := s.inst.hb != decide (s.rx.cmdK % 2 = 1) } ∧
    t.rx = s.rx ∧ t.cfg = s.cfg ∧ t.crcTable = s.crcTable ∧ t.inbound = s.inbound ∧ t.returned = s.returned ∧
    t.probe = s.probe ∧ t.freeCount = s.freeCount

/-- Rule R61: a live record that points outside the scratch buffer stops the dispatcher, which returns no value for it. -/
def Obligations.OutOfBoundsRecordFaults : Prop :=
  ∀ (s : State) (r : CmdRecord) (rs : List CmdRecord), s.rx.recs = r :: rs → 0 < s.rx.cmdK →
    s.cfg.scratchSize ≤ r.off.toNat → exec .dispatch s = .fault .scratchOutOfBounds

/-! ### The receiver: reset, IDLE, LENGTH (41_frame_receiver.md) -/

/-- Rule R140 (and the RxReset column of rule R281): RXRESET clears all per-frame state, writes nothing else, and a second
one changes nothing. -/
def Obligations.RxResetResult : Prop :=
  ∀ s : State, ∃ t, exec .rxReset s = .next t ∧ exec .rxReset t = .next t ∧
    t.cfg = s.cfg ∧ t.inst = s.inst ∧ t.crcTable = s.crcTable ∧ t.link = s.link ∧ t.inbound = s.inbound ∧
    t.returned = s.returned ∧ t.probe = s.probe ∧ t.freeCount = s.freeCount ∧
    t.rx.rxState = .idle ∧ t.rx.syncWin = 0 ∧ t.rx.pos = 0 ∧ t.rx.crc = 0xFFFF ∧ t.rx.lenOk = false ∧
    t.rx.frameEnd = 0 ∧ t.rx.last = 0 ∧ t.rx.subHdr = 0 ∧ t.rx.tl = 0 ∧ t.rx.timeSr = 0 ∧ t.rx.fmtErr = false ∧
    t.rx.idleCnt = 0 ∧ t.rx.cmdC = 0 ∧ t.rx.cmdLen = 0 ∧ t.rx.cmdPad = false ∧ t.rx.cmdEnd = 0 ∧
    t.rx.cmdStartWp = 0 ∧ t.rx.cmdK = 0 ∧ t.rx.wp = 0 ∧
    (∀ i, Memory.read t.rx.scratch i = 0) ∧
    t.rx.recs.length = s.cfg.maxCmds ∧ ∀ r ∈ t.rx.recs, r.off = 0 ∧ r.cnt = 0

/-- Rule R143, no sync: RXBYTE.IDLE shifts the byte into the sync window and does nothing else. -/
def Obligations.IdleByteWithoutSync : Prop :=
  ∀ (s : State) (b : Byte), s.rx.rxState = .idle →
    let win := (s.rx.syncWin.toNat * 256 + b.toNat) % 4294967296
    win ≠ 0xFEFA30C8 →
    exec (.rxByteIdle b) s = .next { s with rx := { s.rx with syncWin := BitVec.ofNat 32 win } }

/-- Rule R143, sync found: the per-frame state is cleared, `pos` = 4, LENGTH is entered, and mission time advances. -/
def Obligations.IdleByteFindsSync : Prop :=
  ∀ (s : State) (b : Byte), s.rx.rxState = .idle → s.crcTable = builtCrcTable →
    (s.cfg.statusInterval = 0 ∨ s.CanSend) →
    (s.rx.syncWin.toNat * 256 + b.toNat) % 4294967296 = 0xFEFA30C8 →
    exec (.rxByteIdle b) s =
      .next (afterTimeAdvance { s with rx := { rxCleared s.cfg with pos := 4, rxState := .length } })

/-- Rules R141, R144: at any other position than p = 6, RXBYTE.LENGTH only counts the byte. -/
def Obligations.LengthByteOnlyCounted : Prop :=
  ∀ (s : State) (b : Byte), s.rx.rxState = .length → s.crcTable = builtCrcTable → midFrame s → s.rx.pos ≠ 5 →
    exec (.rxByteLength b) s = .next { s with rx := byteCounted s.rx b }

/-- Rule R145, the length field accepted. -/
def Obligations.LengthFieldAccepted : Prop :=
  ∀ (s : State) (b : Byte), s.rx.rxState = .length → s.crcTable = builtCrcTable → s.cfg.Legal →
    6 ≤ s.cfg.maxPacketSize → s.rx.pos = 5 →
    let lf := windowNat s.rx b
    lf < 8192 → s.cfg.itfLenMin ≤ lf → lf ≤ s.cfg.itfLenMax →
    exec (.rxByteLength b) s = .next { s with rx := { byteCounted s.rx b with
      lenOk := true, frameEnd := BitVec.ofNat 16 (6 + lf), rxState := .timeStart } }

/-- Rule R145, the length field rejected: a nonzero format field gives CCSDS_FORMAT only, whatever L is; otherwise an L out of
range gives ITF_LENGTH only; the receiver resets. -/
def Obligations.LengthFieldRejected : Prop :=
  ∀ (s : State) (b : Byte), s.rx.rxState = .length → s.crcTable = builtCrcTable → s.CanSend →
    6 ≤ s.cfg.maxPacketSize → s.rx.pos = 5 →
    let lf := windowNat s.rx b
    (8192 ≤ lf → exec (.rxByteLength b) s = .next (afterAbort s 3)) ∧
    (lf < 8192 → (lf < s.cfg.itfLenMin ∨ s.cfg.itfLenMax < lf) →
      exec (.rxByteLength b) s = .next (afterAbort s 1))

/-- Rule R142: in every sync-locked state, the byte that takes `pos` past `MAX_PACKET_SIZE` raises one ITF_LENGTH alarm and
resets the receiver, with no state logic and no end-of-frame check. -/
def Obligations.OverflowGuardAborts : Prop :=
  ∀ (s : State) (b : Byte), s.rx.rxState ≠ .idle → s.crcTable = builtCrcTable → s.CanSend →
    s.cfg.maxPacketSize < s.rx.pos + 1 →
    exec (rxByteInstr s.rx.rxState b) s = .next (afterAbort s 1)

/-! ### The receiver: TIME_START and TIME -/

/-- Rule R146: RXBYTE.TIME_START captures the header word at p = 8 and only counts the byte at p = 7 and p = 9. -/
def Obligations.FirstHeaderWordCaptured : Prop :=
  ∀ (s : State) (b : Byte), s.rx.rxState = .timeStart → s.crcTable = builtCrcTable → midFrame s →
    (s.rx.pos = 7 →
      exec (.rxByteTimeStart b) s =
        .next { s with rx := { byteCounted s.rx b with subHdr := BitVec.ofNat 16 (windowNat s.rx b) } }) ∧
    (s.rx.pos = 6 ∨ s.rx.pos = 8 → exec (.rxByteTimeStart b) s = .next { s with rx := byteCounted s.rx b })

/-- Rules R147, R154, R159: at p = 10 RXBYTE.TIME_START goes to TIME on the timestamp marker, begins command 0 on the command
marker, and otherwise raises CCSDS_FORMAT or CCSDS_APID and goes to CMD_START. -/
def Obligations.FirstHeaderWordDecides : Prop :=
  ∀ (s : State) (b : Byte), s.rx.rxState = .timeStart → s.crcTable = builtCrcTable → midFrame s → s.CanSend →
    s.rx.pos = 9 →
    (s.rx.subHdr = s.cfg.timeMarker →
      exec (.rxByteTimeStart b) s = .next { s with rx := { byteCounted s.rx b with rxState := .time } }) ∧
    (s.rx.subHdr ≠ s.cfg.timeMarker → s.rx.subHdr = s.cfg.cmdMarker → s.rx.cmdK < s.cfg.maxCmds →
      exec (.rxByteTimeStart b) s = .next { s with rx := commandBegun s.rx b 4 }) ∧
    (s.rx.subHdr ≠ s.cfg.timeMarker → s.rx.subHdr ≠ s.cfg.cmdMarker →
      exec (.rxByteTimeStart b) s =
        .next { afterAlarm s (if apidKnown s.cfg s.rx.subHdr.toNat then 3 else 4) with rx := searchBegun s.rx b })

/-- Rule R148: RXBYTE.TIME captures the declared length at p = 12, checks it at p = 14 (CCSDS_LENGTH and CMD_START when it is
wrong), and only counts the byte at p = 11 and p = 13. -/
def Obligations.TimestampLengthChecked : Prop :=
  ∀ (s : State) (b : Byte), s.rx.rxState = .time → s.crcTable = builtCrcTable → midFrame s → s.CanSend →
    (s.rx.pos = 11 →
      exec (.rxByteTime b) s =
        .next { s with rx := { byteCounted s.rx b with tl := BitVec.ofNat 16 (windowNat s.rx b) } }) ∧
    (s.rx.pos = 10 ∨ s.rx.pos = 12 ∨ (s.rx.pos = 13 ∧ s.rx.tl = s.cfg.timeLenExpected) →
      exec (.rxByteTime b) s = .next { s with rx := byteCounted s.rx b }) ∧
    (s.rx.pos = 13 → s.rx.tl ≠ s.cfg.timeLenExpected →
      exec (.rxByteTime b) s = .next { afterAlarm s 5 with rx := searchBegun s.rx b })

/-- Rule R149: RXBYTE.TIME shifts p = 15..18 into `time_sr`; at p = 18 the four bytes become the pending time. -/
def Obligations.TimestampCaptured : Prop :=
  ∀ (s : State) (b : Byte), s.rx.rxState = .time → s.crcTable = builtCrcTable → midFrame s →
    let sr := BitVec.ofNat 32 ((s.rx.timeSr.toNat * 256 + b.toNat) % 4294967296)
    (14 ≤ s.rx.pos → s.rx.pos ≤ 16 →
      exec (.rxByteTime b) s = .next { s with rx := { byteCounted s.rx b with timeSr := sr } }) ∧
    (s.rx.pos = 17 →
      exec (.rxByteTime b) s = .next { s with
        rx := { byteCounted s.rx b with timeSr := sr }
        inst := { s.inst with pendingTime := sr, timeReceived := true } })

/-- Rule R150: RXBYTE.TIME in the reserved span records a nonzero byte; at p = 48, that byte included, a recorded one raises
one CCSDS_FORMAT alarm and withdraws the capture; CMD_START follows. -/
def Obligations.ReservedSpanChecked : Prop :=
  ∀ (s : State) (b : Byte), s.rx.rxState = .time → s.crcTable = builtCrcTable → midFrame s → s.CanSend →
    let bad := s.rx.fmtErr = true ∨ b ≠ 0
    (18 ≤ s.rx.pos → s.rx.pos ≤ 46 →
      exec (.rxByteTime b) s = .next { s with rx := { byteCounted s.rx b with fmtErr := decide bad } }) ∧
    (s.rx.pos = 47 → ¬ bad → exec (.rxByteTime b) s = .next { s with rx := searchBegun s.rx b }) ∧
    (s.rx.pos = 47 → bad →
      exec (.rxByteTime b) s = .next { afterAlarm s 3 with
        rx := { searchBegun s.rx b with fmtErr := true }
        inst := { (afterAlarm s 3).inst with timeReceived := false } })

/-! ### The receiver: CMD_START and CMD -/

/-- Rules R151, R154, R159: RXBYTE.CMD_START begins a command when the window is the command marker from the 2nd idle byte
on; otherwise the 3rd idle byte raises CCSDS_FORMAT (a known APID before the trailer) or CCSDS_APID and clears the count. -/
def Obligations.CommandHeaderSearched : Prop :=
  ∀ (s : State) (b : Byte), s.rx.rxState = .cmdStart → s.crcTable = builtCrcTable → midFrame s → s.CanSend →
    let n := s.rx.idleCnt.toNat + 1
    let found := 2 ≤ n ∧ windowNat s.rx b = s.cfg.cmdMarker.toNat
    n ≤ 3 →
    (found → s.rx.cmdK < s.cfg.maxCmds →
      exec (.rxByteCmdStart b) s = .next { s with rx := commandBegun s.rx b 2 }) ∧
    (¬ found → n ≤ 2 →
      exec (.rxByteCmdStart b) s = .next { s with rx := { byteCounted s.rx b with idleCnt := BitVec.ofNat 8 n } }) ∧
    (¬ found → n = 3 →
      exec (.rxByteCmdStart b) s =
        .next { afterAlarm s
            (if s.rx.pos + 3 ≤ s.rx.frameEnd.toNat ∧ apidKnown s.cfg (windowNat s.rx b) then 3 else 4) with
          rx := { byteCounted s.rx b with idleCnt := 0 } })

/-- Rule R154: a command header matched when `MAX_CMDS` commands are complete raises one ITF_LENGTH alarm and resets the
receiver; none of the commands is dispatched. -/
def Obligations.CommandCountLimitAborts : Prop :=
  ∀ (s : State) (b : Byte), s.crcTable = builtCrcTable → s.CanSend →
    s.rx.pos + 1 ≤ s.cfg.maxPacketSize → s.cfg.maxCmds ≤ s.rx.cmdK →
    (s.rx.rxState = .cmdStart → 1 ≤ s.rx.idleCnt.toNat → s.rx.idleCnt.toNat ≤ 2 →
      windowNat s.rx b = s.cfg.cmdMarker.toNat →
      exec (.rxByteCmdStart b) s = .next (afterAbort s 1)) ∧
    (s.rx.rxState = .timeStart → s.rx.pos = 9 → s.rx.subHdr ≠ s.cfg.timeMarker → s.rx.subHdr = s.cfg.cmdMarker →
      exec (.rxByteTimeStart b) s = .next (afterAbort s 1))

/-- Rule R155: the command bytes c = 3, 4, 5 and c = 7..10 change `cmd_c`, `pos`, `crc` and `last` and nothing else. -/
def Obligations.CommandHeaderBytesIgnored : Prop :=
  ∀ (s : State) (b : Byte), s.rx.rxState = .cmd → s.crcTable = builtCrcTable → midFrame s →
    let c := s.rx.cmdC.toNat + 1
    (3 ≤ c ∧ c ≤ 5 ∨ 7 ≤ c ∧ c ≤ 10) →
    exec (.rxByteCmd b) s = .next { s with rx := { byteCounted s.rx b with cmdC := BitVec.ofNat 16 c } }

/-- Rule R152, the declared length accepted at c = 6: the pad flag and the end of the command follow from it. -/
def Obligations.CommandLengthAccepted : Prop :=
  ∀ (s : State) (b : Byte), s.rx.rxState = .cmd → s.crcTable = builtCrcTable → midFrame s → s.rx.cmdC = 5 →
    let cl := windowNat s.rx b
    s.cfg.minCmd ≤ cl → cl ≤ s.cfg.maxCmd →
    exec (.rxByteCmd b) s = .next { s with rx := { byteCounted s.rx b with
      cmdC := 6
      cmdLen := BitVec.ofNat 16 cl
      cmdPad := decide (cl % 2 = 0)
      cmdEnd := BitVec.ofNat 16 (cl + 7 + if cl % 2 = 0 then 1 else 0) } }

/-- Rules R152, R153, the declared length rejected at c = 6: one CCSDS_LENGTH alarm, the command excised (its slot cleared,
its predecessor's argument count too where the parameter says so), and CMD_START; `cmd_k` does not move. -/
def Obligations.CommandLengthRejectedExcises : Prop :=
  ∀ (s : State) (b : Byte), s.rx.rxState = .cmd → s.crcTable = builtCrcTable → midFrame s → s.CanSend →
    s.rx.cmdC = 5 → s.rx.cmdK < s.rx.recs.length →
    let cl := windowNat s.rx b
    (cl < s.cfg.minCmd ∨ s.cfg.maxCmd < cl) →
    ∃ recs, exec (.rxByteCmd b) s = .next { afterAlarm s 5 with rx := { searchBegun s.rx b with
        wp := s.rx.cmdStartWp, cmdC := 0, cmdLen := 0, cmdPad := false, cmdEnd := 0, recs := recs } } ∧
      ∀ j, recs[j]? =
        if j = s.rx.cmdK then some ⟨0, 0⟩
        else if s.cfg.exciseClearsPredCount = true ∧ j + 1 = s.rx.cmdK then
          s.rx.recs[j]?.map (fun r => { r with cnt := 0 })
        else s.rx.recs[j]?

/-- Rule R156, a body byte that does not complete its command: it is stored at `scratch[wp]`, every other byte of the scratch
buffer keeps its value, and `wp` moves on. -/
def Obligations.CommandBodyByteStored : Prop :=
  ∀ (s : State) (b : Byte), s.rx.rxState = .cmd → s.crcTable = builtCrcTable → midFrame s →
    Memory.wf s.rx.scratch = true → s.rx.wp < s.cfg.scratchSize →
    let c := s.rx.cmdC.toNat + 1
    11 ≤ c → c < 65536 → c ≤ s.rx.cmdLen.toNat + 7 → c ≠ s.rx.cmdEnd.toNat →
    ∃ m, exec (.rxByteCmd b) s = .next { s with rx := { byteCounted s.rx b with
        cmdC := BitVec.ofNat 16 c, wp := s.rx.wp + 1, scratch := m } } ∧
      Memory.wf m = true ∧ ∀ a, Memory.read m a = if a = s.rx.wp then b else Memory.read s.rx.scratch a

/-- Rule R156, scratch full: a body byte with `wp` at `SCRATCH_SIZE` raises one ITF_LENGTH alarm and resets the receiver. -/
def Obligations.ScratchOverflowAborts : Prop :=
  ∀ (s : State) (b : Byte), s.rx.rxState = .cmd → s.crcTable = builtCrcTable → s.CanSend →
    s.rx.pos + 1 ≤ s.cfg.maxPacketSize → s.cfg.scratchSize ≤ s.rx.wp →
    let c := s.rx.cmdC.toNat + 1
    11 ≤ c → c < 65536 → c ≤ s.rx.cmdLen.toNat + 7 →
    exec (.rxByteCmd b) s = .next (afterAbort s 1)

/-- Rules R156, R157, completion: on the byte at `cmd_end` the record is written, `cmd_k` moves on and CMD_START follows. The
last body byte is stored as any other; a pad byte (c = CL + 8) is consumed and not stored, whatever its value. `rec_off`
holds the low 8 bits of `cmd_start_wp`, which is all of it for a scratch buffer of up to 256 bytes (log entry 16). -/
def Obligations.CommandCompletes : Prop :=
  ∀ (s : State) (b : Byte), s.rx.rxState = .cmd → s.crcTable = builtCrcTable → midFrame s →
    Memory.wf s.rx.scratch = true → s.rx.cmdK < s.rx.recs.length → 4 ≤ s.rx.cmdLen.toNat →
    let c := s.rx.cmdC.toNat + 1
    let stored := c ≤ s.rx.cmdLen.toNat + 7
    (stored → s.rx.wp < s.cfg.scratchSize) → 11 ≤ c → c < 65536 → c = s.rx.cmdEnd.toNat →
    ∃ m, exec (.rxByteCmd b) s = .next { s with rx := { searchBegun s.rx b with
        cmdC := BitVec.ofNat 16 c
        wp := if stored then s.rx.wp + 1 else s.rx.wp
        scratch := m
        recs := s.rx.recs.set s.rx.cmdK ⟨BitVec.ofNat 8 s.rx.cmdStartWp, BitVec.ofNat 8 (s.rx.cmdLen.toNat - 4)⟩
        cmdK := s.rx.cmdK + 1 } } ∧
      Memory.wf m = true ∧
      ∀ a, Memory.read m a = if stored ∧ a = s.rx.wp then b else Memory.read s.rx.scratch a

/-! ### End of frame -/

/-- Rule R158: on the byte at p = `frame_end` the state rule runs first (its result is that of the same byte with no frame end
in sight, `u`); then a zero residue dispatches the commands and any other raises one ITF_CHECKSUM alarm; the receiver resets
in both cases. A state rule that itself reset the receiver skips this. -/
def Obligations.EndOfFrameFollowsTheStateRule : Prop :=
  ∀ (s u : State) (b : Byte), s.Ready → s.rx.rxState ≠ .idle → s.rx.rxState ≠ .length →
    s.rx.lenOk = true → s.rx.pos + 1 = s.rx.frameEnd.toNat → s.rx.pos + 1 ≤ s.cfg.maxPacketSize →
    exec (rxByteInstr s.rx.rxState b) { s with rx := { s.rx with lenOk := false } } = .next u →
    (u.rx.rxState = .idle → exec (rxByteInstr s.rx.rxState b) s = .next u) ∧
    (u.rx.rxState ≠ .idle → refCrcByte s.rx.crc b ≠ 0 →
      exec (rxByteInstr s.rx.rxState b) s = .next (afterAbort u 2)) ∧
    (u.rx.rxState ≠ .idle → refCrcByte s.rx.crc b = 0 →
      ∀ v, exec .dispatch u = .next v → exec (rxByteInstr s.rx.rxState b) s = .next (frameCleared v))

/-! ### The machine -/

/-- Rules R21, R96: the oldest item at the port stands for an operation word, and a step runs the operation that word decodes
to. That an operation named to the model by its word, an internal one included, is run alone by the next step is the model's
choice (log entries 1 and 3): by rule R21 only Reset and RxByte reach the block. -/
def Obligations.StepRunsTheDecodedOperation : Prop :=
  (∀ (s : State) (item : PortItem) (rest : List PortItem) (i : Instr), s.probe = none → s.inbound = item :: rest →
    decode (portOperation s.rx.rxState item) = .ok i → step s = exec i { s with inbound := rest }) ∧
  (∀ (s : State) (o : Operation) (i : Instr), s.probe = some o → decode o = .ok i → step s = exec i { s with probe := none })

/-- Rules R21, R68, R96: an inbound byte is consumed by RxByte in the state the receiver is in, and Reset by RESET; with
nothing at the port the step leaves the state as it is, which is the model's choice (log entry 1). -/
def Obligations.StepConsumesAnInboundByte : Prop :=
  (∀ (s : State) (b : Byte) (rest : List PortItem), s.probe = none → s.inbound = .byte b :: rest →
    step s = exec (rxByteInstr s.rx.rxState b) { s with inbound := rest }) ∧
  (∀ (s : State) (rest : List PortItem), s.probe = none → s.inbound = .reset :: rest →
    step s = exec .reset { s with inbound := rest }) ∧
  (∀ s : State, s.probe = none → s.inbound = [] → step s = .next s)

/-- Rule R21: "No other operation reaches the block from outside". In a run of the block no operation is named to the model
from outside it: from a state that holds none, a number of steps, whatever stands at the port, leads to a state that holds
none, and the next step is that of RxByte in the receiver's state, of Reset, or (log entry 1) none at all. -/
def Obligations.OnlyBytesAndResetReachTheBlock : Prop :=
  ∀ (k : Nat) (s t : State), s.probe = none → Host.Core.run Sys2Proof.core k s = .next t →
    State.probe t = none ∧
    ((∃ b rest, State.inbound t = .byte b :: rest ∧
        step t = exec (rxByteInstr (State.rx t).rxState b) { t with inbound := rest }) ∨
      (∃ rest, State.inbound t = .reset :: rest ∧ step t = exec .reset { t with inbound := rest }) ∨
      State.inbound t = [] ∧ step t = .next t)

/-- Rules R280, R281: RESET. `outbuf` is unspecified after it, so nothing is said of its bytes. That the input port, the
transport and the model's own fields keep their state is the model's choice (log entries 3, 6 and 8). -/
def Obligations.ResetResult : Prop :=
  ∀ s : State, ∃ t, exec .reset s = .next t ∧
    t.rx = (State.powerOn s.cfg).rx ∧ t.crcTable = builtCrcTable ∧
    t.inst.hb = false ∧ t.inst.pw = false ∧ t.inst.seq = 0 ∧ t.inst.met = 0 ∧ t.inst.sic = 0 ∧
    t.inst.pendingTime = 0 ∧ t.inst.timeReceived = false ∧
    t.link.outbound = [] ∧ t.link.inFlight = false ∧
    t.cfg = s.cfg ∧ t.inbound = s.inbound ∧ t.link.drains = s.link.drains ∧ t.returned = s.returned ∧ t.probe = s.probe

/-- The invariant holds after reset with any legal parameters, the defaults among them (rules R5, R281). The value 0 of
`STATUS_INTERVAL`, the zero `outbuf` and the draining transport of `State.reset` are the model's choices (log entries 2, 6
and 7). -/
def Obligations.InvariantHoldsAtReset : Prop :=
  (∀ c : Config, c.Legal → (State.powerOn c).Inv) ∧ State.reset.Inv

/-- Every step, of whatever operation, keeps the invariant: records stay inside the scratch buffer (rule R61), `sic` below
the interval (rule R205), the receiver's counters in step with its state (rules R140 to R157), the scratch canonical. -/
def Obligations.EveryStepKeepsTheInvariant : Prop :=
  ∀ s t : State, s.Inv → step s = .next t → t.Inv

/-- Rules R263, R267, R289: in a state that meets the invariant, with a transport that drains, every operation of the block
completes in a state that meets it, an RxByte operation in the state it names. -/
def Obligations.EveryOperationCompletesSafely : Prop :=
  ∀ (s : State) (i : Instr), s.Inv → s.link.drains = none → i.WellFormed = true →
    (∀ st b, i = rxByteInstr st b → s.rx.rxState = st) → SafeOutcome (exec i s)

/-- Rules R263, R289: "The system never halts". Any bytes whatever, delivered in a state that meets the invariant to a block
whose transport drains, are all consumed. -/
def Obligations.AnyInboundStreamIsConsumed : Prop :=
  ∀ (bs : List Byte) (s : State), s.Inv → s.link.drains = none → s.probe = none → s.inbound = bs.map PortItem.byte →
    ∃ t, Host.Core.run Sys2Proof.core bs.length s = .next t ∧ t.inbound = [] ∧ State.Inv t

/-- Rule R160: the packets of one RxByte step, in order: in IDLE at most a Status; sync-locked, at most one alarm of the state
rule, then the end-of-frame output, which is Echoes or one ITF_CHECKSUM alarm. -/
def Obligations.PacketsOfOneByteInOrder : Prop :=
  ∀ (s t : State) (b : Byte), exec (rxByteInstr s.rx.rxState b) s = .next t →
    ∃ ps, t.link.outbound = s.link.outbound ++ ps ∧
      (s.rx.rxState = .idle → ps = [] ∨ ∃ p, ps = [p] ∧ p.kind = .status) ∧
      (s.rx.rxState ≠ .idle → ∃ first last, ps = first ++ last ∧
        (first = [] ∨ ∃ p, first = [p] ∧ p.kind = .alarm) ∧
        ((∀ p ∈ last, p.kind = .echo) ∨ ∃ p, last = [p] ∧ p.kind = .alarm ∧ p.bytes[16]? = some 2))

/-- The transitions that open 41_frame_receiver.md, and no other: "No other transition exists". -/
def Obligations.ReceiverStateGraph : Prop :=
  ∀ (s t : State) (b : Byte), exec (rxByteInstr s.rx.rxState b) s = .next t →
    match s.rx.rxState with
    | .idle => t.rx.rxState = .idle ∨ t.rx.rxState = .length
    | .length => t.rx.rxState = .length ∨ t.rx.rxState = .timeStart ∨ t.rx.rxState = .idle
    | .timeStart => t.rx.rxState ≠ .length
    | .time => t.rx.rxState = .time ∨ t.rx.rxState = .cmdStart ∨ t.rx.rxState = .idle
    | .cmdStart => t.rx.rxState = .cmdStart ∨ t.rx.rxState = .cmd ∨ t.rx.rxState = .idle
    | .cmd => t.rx.rxState = .cmd ∨ t.rx.rxState = .cmdStart ∨ t.rx.rxState = .idle

/-- Rules R204, R206: mission time and `sic` move only in IDLE, at a sync; the capture moves only in IDLE and TIME. -/
def Obligations.TimeMovesOnlyAtASync : Prop :=
  ∀ (s t : State) (b : Byte), exec (rxByteInstr s.rx.rxState b) s = .next t →
    (s.rx.rxState ≠ .idle → t.inst.met = s.inst.met ∧ t.inst.sic = s.inst.sic) ∧
    (s.rx.rxState = .idle → t.rx.rxState = .idle → t.inst = s.inst) ∧
    (s.rx.rxState ≠ .idle → s.rx.rxState ≠ .time →
      t.inst.pendingTime = s.inst.pendingTime ∧ t.inst.timeReceived = s.inst.timeReceived)

/-- Rule R203: nothing that reaches the block from outside toggles the power bit, so from `pw` = 0 it stays 0, and bit 6 of
byte 4 of every outbound packet stays 0. -/
def Obligations.PowerBitStaysClear : Prop :=
  ∀ s t : State, s.probe = none → s.inst.pw = false →
    (∀ p ∈ s.link.outbound, (p.bytes.getD 4 0).getLsbD 6 = false) → step s = .next t →
    t.inst.pw = false ∧ ∀ p ∈ t.link.outbound, (p.bytes.getD 4 0).getLsbD 6 = false

/-- Rules R28, R283: no step changes the parameters; and no step but RESET and BUILDTABLE writes the CRC table (rule R29), so
a built table stays. -/
def Obligations.ParametersAndTableAreFixed : Prop :=
  ∀ s t : State, step s = .next t →
    t.cfg = s.cfg ∧ (s.crcTable = builtCrcTable → t.crcTable = builtCrcTable)

/-- Rules R142, R156: where `MAX_PACKET_SIZE` and `SCRATCH_SIZE` are large enough, as under the defaults, neither the overflow
guard nor the scratch overflow can be met in a state that meets the invariant. -/
def Obligations.OverflowsUnreachableUnderDefaults : Prop :=
  (∀ s : State, s.Inv → 6 + s.cfg.itfLenMax ≤ s.cfg.maxPacketSize → 11 * s.cfg.maxCmds ≤ s.cfg.scratchSize →
    (s.rx.rxState ≠ .idle → s.rx.pos + 1 ≤ s.cfg.maxPacketSize) ∧
    (s.rx.rxState = .cmd → 10 ≤ s.rx.cmdC.toNat → s.rx.cmdC.toNat + 1 ≤ s.rx.cmdLen.toNat + 7 →
      s.rx.wp < s.cfg.scratchSize)) ∧
  6 + Config.default.itfLenMax ≤ Config.default.maxPacketSize ∧
  11 * Config.default.maxCmds ≤ Config.default.scratchSize
end

