-- ==== Sys2Proof/Laws/Memory.lean ====
section
/-! SUPPORT. The scratch buffer: a read after a write, and every operation keeps the canonical form. -/

-- One theorem after the other: theorems elaborated side by side wait for one another, each wait on a thread of its own.
set_option Elab.async false

namespace Sys2Proof.Machine

@[simp] theorem Memory.read_nil (a : Nat) : Memory.read [] a = 0 := rfl

theorem Memory.read_cons (k : Nat) (v : Byte) (m : Memory) (a : Nat) :
    Memory.read ((k, v) :: m) a = if k = a then v else Memory.read m a := rfl

/-- Below all indices of a canonical memory every byte reads as 0x00. -/
theorem Memory.read_of_above {m : Memory} {a : Nat} (hw : Memory.wf m = true) (ha : Memory.above a m = true) :
    Memory.read m a = 0 := by
  induction m with
  | nil => rfl
  | cons c m ih =>
    obtain ⟨k, v⟩ := c
    simp only [Memory.wf, Memory.above, Bool.and_eq_true, decide_eq_true_eq] at hw ha
    rw [Memory.read_cons, if_neg (by omega)]
    refine ih hw.2 ?_
    cases m with
    | nil => rfl
    | cons c' m' =>
      have h := hw.1.2
      simp only [Memory.above, decide_eq_true_eq] at h ⊢
      omega

/-- A byte written reads back. -/
theorem Memory.read_write_same {m : Memory} (a : Nat) (v : Byte) (hw : Memory.wf m = true) :
    Memory.read (Memory.write m a v) a = v := by
  induction m with
  | nil => by_cases hv : v = 0#8 <;> simp [Memory.write, Memory.read, hv]
  | cons c m ih =>
    obtain ⟨k, x⟩ := c
    simp only [Memory.wf, Bool.and_eq_true, decide_eq_true_eq] at hw
    simp only [Memory.write]
    split
    · rename_i hlt
      by_cases hv : v = 0#8
      · subst hv
        rw [if_pos (show (0#8 : Byte) = 0 from rfl)]
        apply Memory.read_of_above
        · simp only [Memory.wf, Bool.and_eq_true, decide_eq_true_eq]; exact hw
        · simpa [Memory.above] using hlt
      · simp [hv, Memory.read]
    · split
      · rename_i h heq
        subst heq
        by_cases hv : v = 0#8
        · subst hv; rw [if_pos (show (0#8 : Byte) = 0 from rfl)]; exact Memory.read_of_above hw.2 hw.1.2
        · simp [hv, Memory.read]
      · rename_i h hne
        rw [Memory.read_cons, if_neg (fun e => hne e.symm)]
        exact ih hw.2

/-- A write leaves every other index alone. -/
theorem Memory.read_write_other {m : Memory} {a i : Nat} (v : Byte) (hi : i ≠ a) :
    Memory.read (Memory.write m a v) i = Memory.read m i := by
  induction m with
  | nil => by_cases hv : v = 0#8 <;> simp [Memory.write, Memory.read, hv, Ne.symm hi]
  | cons c m ih =>
    obtain ⟨k, x⟩ := c
    simp only [Memory.write]
    split
    · by_cases hv : v = 0#8 <;> simp [hv, Memory.read, Ne.symm hi]
    · split
      · rename_i h heq
        subst heq
        by_cases hv : v = 0#8 <;> simp [hv, Memory.read, Ne.symm hi]
      · simp only [Memory.read_cons, ih]

theorem Memory.wf_cons {k : Nat} {v : Byte} {m : Memory} :
    Memory.wf ((k, v) :: m) = true ↔ v ≠ 0 ∧ Memory.above k m = true ∧ Memory.wf m = true := by
  simp [Memory.wf, and_assoc]

theorem Memory.above_mono {m : Memory} {a b : Nat} (h : a ≤ b) (hb : Memory.above b m = true) :
    Memory.above a m = true := by
  cases m with
  | nil => rfl
  | cons c m => simp only [Memory.above, decide_eq_true_eq] at hb ⊢; omega

theorem Memory.above_write {m : Memory} {a k : Nat} (v : Byte) (hk : k < a) (hm : Memory.above k m = true)
    (hw : Memory.wf m = true) : Memory.above k (Memory.write m a v) = true := by
  cases m with
  | nil => by_cases hv : v = 0#8 <;> simp [Memory.write, Memory.above, hv, hk]
  | cons c m =>
    obtain ⟨j, x⟩ := c
    have hj : k < j := by simpa [Memory.above] using hm
    simp only [Memory.write]
    split
    · by_cases hv : v = 0#8 <;> simp [hv, Memory.above, hk, hj]
    · split
      · by_cases hv : v = 0#8
        · simpa [hv] using Memory.above_mono hj.le (Memory.wf_cons.mp hw).2.1
        · simp [hv, Memory.above, hk]
      · simpa [Memory.above] using hj

/-- A write keeps the canonical form. -/
theorem Memory.wf_write {m : Memory} (a : Nat) (v : Byte) (hw : Memory.wf m = true) :
    Memory.wf (Memory.write m a v) = true := by
  induction m with
  | nil => by_cases hv : v = 0#8 <;> simp [Memory.write, Memory.wf, Memory.above, hv]
  | cons c m ih =>
    obtain ⟨k, x⟩ := c
    have h := Memory.wf_cons.mp hw
    simp only [Memory.write]
    split
    · by_cases hv : v = 0#8
      · simpa [hv] using hw
      · rw [if_neg (show ¬ v = 0 from hv)]
        exact Memory.wf_cons.mpr ⟨hv, by simpa [Memory.above], hw⟩
    · split
      · rename_i _ heq
        subst heq
        by_cases hv : v = 0#8
        · simpa [hv] using h.2.2
        · rw [if_neg (show ¬ v = 0 from hv)]; exact Memory.wf_cons.mpr ⟨hv, h.2⟩
      · exact Memory.wf_cons.mpr ⟨h.1, Memory.above_write v (by omega) h.2.1 h.2.2, ih h.2.2⟩

/-- The entries of a memory after a write are the old ones and the one written. -/
theorem Memory.mem_write {m : Memory} {a : Nat} {v : Byte} {c : Host.Cell} (h : c ∈ Memory.write m a v) :
    c ∈ m ∨ c = (a, v) := by
  induction m with
  | nil => by_cases hv : v = 0#8 <;> simp_all [Memory.write]
  | cons d m ih =>
    obtain ⟨k, x⟩ := d
    simp only [Memory.write] at h
    split at h
    · by_cases hv : v = 0#8 <;> simp_all; tauto
    · split at h
      · by_cases hv : v = 0#8 <;> simp_all; tauto
      · rcases List.mem_cons.mp h with h | h
        · exact .inl (by simp [h])
        · exact (ih h).imp (List.mem_cons_of_mem _) id

/-- The scratch buffer of the reset state has the canonical form. -/
theorem reset_scratch_wf : Memory.wf State.reset.rx.scratch = true := rfl

/-- A scratch write keeps the canonical form. -/
theorem scratchWrite_wf {s t : State} {i : Nat} {v : Byte} (h : scratchWrite s i v = .ok t)
    (hw : Memory.wf s.rx.scratch = true) : Memory.wf t.rx.scratch = true := by
  unfold scratchWrite at h
  split at h
  · cases h; exact Memory.wf_write i v hw
  · cases h

end Sys2Proof.Machine
end

