-- ==== Sys2Proof/Laws/State.lean ====
section
/-! SUPPORT. One lemma per field of `State` per update, so that no proof unfolds a record update, and the updates of one
field after another. -/

-- One theorem after the other: theorems elaborated side by side wait for one another, each wait on a thread of its own.
set_option Elab.async false

namespace Sys2Proof.Machine

/-! ### `withRx` -/

@[simp] theorem State.withRx_cfg (s : State) (x : Receiver) : (s.withRx x).cfg = s.cfg := rfl
@[simp] theorem State.withRx_rx (s : State) (x : Receiver) : (s.withRx x).rx = x := rfl
@[simp] theorem State.withRx_inst (s : State) (x : Receiver) : (s.withRx x).inst = s.inst := rfl
@[simp] theorem State.withRx_crcTable (s : State) (x : Receiver) : (s.withRx x).crcTable = s.crcTable := rfl
@[simp] theorem State.withRx_link (s : State) (x : Receiver) : (s.withRx x).link = s.link := rfl
@[simp] theorem State.withRx_inbound (s : State) (x : Receiver) : (s.withRx x).inbound = s.inbound := rfl
@[simp] theorem State.withRx_returned (s : State) (x : Receiver) : (s.withRx x).returned = s.returned := rfl
@[simp] theorem State.withRx_probe (s : State) (x : Receiver) : (s.withRx x).probe = s.probe := rfl
@[simp] theorem State.withRx_freeCount (s : State) (x : Receiver) : (s.withRx x).freeCount = s.freeCount := rfl
@[simp] theorem State.withRx_withRx (s : State) (x y : Receiver) : (s.withRx x).withRx y = s.withRx y := rfl
@[simp] theorem State.withRx_self (s : State) : s.withRx s.rx = s := rfl

/-! ### `withInst` -/

@[simp] theorem State.withInst_cfg (s : State) (x : Instrument) : (s.withInst x).cfg = s.cfg := rfl
@[simp] theorem State.withInst_rx (s : State) (x : Instrument) : (s.withInst x).rx = s.rx := rfl
@[simp] theorem State.withInst_inst (s : State) (x : Instrument) : (s.withInst x).inst = x := rfl
@[simp] theorem State.withInst_crcTable (s : State) (x : Instrument) : (s.withInst x).crcTable = s.crcTable := rfl
@[simp] theorem State.withInst_link (s : State) (x : Instrument) : (s.withInst x).link = s.link := rfl
@[simp] theorem State.withInst_inbound (s : State) (x : Instrument) : (s.withInst x).inbound = s.inbound := rfl
@[simp] theorem State.withInst_returned (s : State) (x : Instrument) : (s.withInst x).returned = s.returned := rfl
@[simp] theorem State.withInst_probe (s : State) (x : Instrument) : (s.withInst x).probe = s.probe := rfl
@[simp] theorem State.withInst_freeCount (s : State) (x : Instrument) : (s.withInst x).freeCount = s.freeCount := rfl
@[simp] theorem State.withInst_withInst (s : State) (x y : Instrument) : (s.withInst x).withInst y = s.withInst y := rfl
@[simp] theorem State.withInst_self (s : State) : s.withInst s.inst = s := rfl

/-! ### `withLink` -/

@[simp] theorem State.withLink_cfg (s : State) (x : Link) : (s.withLink x).cfg = s.cfg := rfl
@[simp] theorem State.withLink_rx (s : State) (x : Link) : (s.withLink x).rx = s.rx := rfl
@[simp] theorem State.withLink_inst (s : State) (x : Link) : (s.withLink x).inst = s.inst := rfl
@[simp] theorem State.withLink_crcTable (s : State) (x : Link) : (s.withLink x).crcTable = s.crcTable := rfl
@[simp] theorem State.withLink_link (s : State) (x : Link) : (s.withLink x).link = x := rfl
@[simp] theorem State.withLink_inbound (s : State) (x : Link) : (s.withLink x).inbound = s.inbound := rfl
@[simp] theorem State.withLink_returned (s : State) (x : Link) : (s.withLink x).returned = s.returned := rfl
@[simp] theorem State.withLink_probe (s : State) (x : Link) : (s.withLink x).probe = s.probe := rfl
@[simp] theorem State.withLink_freeCount (s : State) (x : Link) : (s.withLink x).freeCount = s.freeCount := rfl
@[simp] theorem State.withLink_withLink (s : State) (x y : Link) : (s.withLink x).withLink y = s.withLink y := rfl
@[simp] theorem State.withLink_self (s : State) : s.withLink s.link = s := rfl

/-! ### `withCrcTable` -/

@[simp] theorem State.withCrcTable_cfg (s : State) (x : CrcTable) : (s.withCrcTable x).cfg = s.cfg := rfl
@[simp] theorem State.withCrcTable_rx (s : State) (x : CrcTable) : (s.withCrcTable x).rx = s.rx := rfl
@[simp] theorem State.withCrcTable_inst (s : State) (x : CrcTable) : (s.withCrcTable x).inst = s.inst := rfl
@[simp] theorem State.withCrcTable_crcTable (s : State) (x : CrcTable) : (s.withCrcTable x).crcTable = x := rfl
@[simp] theorem State.withCrcTable_link (s : State) (x : CrcTable) : (s.withCrcTable x).link = s.link := rfl
@[simp] theorem State.withCrcTable_inbound (s : State) (x : CrcTable) : (s.withCrcTable x).inbound = s.inbound := rfl
@[simp] theorem State.withCrcTable_returned (s : State) (x : CrcTable) : (s.withCrcTable x).returned = s.returned := rfl
@[simp] theorem State.withCrcTable_probe (s : State) (x : CrcTable) : (s.withCrcTable x).probe = s.probe := rfl
@[simp] theorem State.withCrcTable_freeCount (s : State) (x : CrcTable) : (s.withCrcTable x).freeCount = s.freeCount := rfl
@[simp] theorem State.withCrcTable_withCrcTable (s : State) (x y : CrcTable) : (s.withCrcTable x).withCrcTable y = s.withCrcTable y := rfl
@[simp] theorem State.withCrcTable_self (s : State) : s.withCrcTable s.crcTable = s := rfl

/-! ### `withReturned` -/

@[simp] theorem State.withReturned_cfg (s : State) (x : Returned) : (s.withReturned x).cfg = s.cfg := rfl
@[simp] theorem State.withReturned_rx (s : State) (x : Returned) : (s.withReturned x).rx = s.rx := rfl
@[simp] theorem State.withReturned_inst (s : State) (x : Returned) : (s.withReturned x).inst = s.inst := rfl
@[simp] theorem State.withReturned_crcTable (s : State) (x : Returned) : (s.withReturned x).crcTable = s.crcTable := rfl
@[simp] theorem State.withReturned_link (s : State) (x : Returned) : (s.withReturned x).link = s.link := rfl
@[simp] theorem State.withReturned_inbound (s : State) (x : Returned) : (s.withReturned x).inbound = s.inbound := rfl
@[simp] theorem State.withReturned_returned (s : State) (x : Returned) : (s.withReturned x).returned = x := rfl
@[simp] theorem State.withReturned_probe (s : State) (x : Returned) : (s.withReturned x).probe = s.probe := rfl
@[simp] theorem State.withReturned_freeCount (s : State) (x : Returned) : (s.withReturned x).freeCount = s.freeCount := rfl
@[simp] theorem State.withReturned_withReturned (s : State) (x y : Returned) : (s.withReturned x).withReturned y = s.withReturned y := rfl
@[simp] theorem State.withReturned_self (s : State) : s.withReturned s.returned = s := rfl

/-! ### `withInbound` -/

@[simp] theorem State.withInbound_cfg (s : State) (x : List PortItem) : (s.withInbound x).cfg = s.cfg := rfl
@[simp] theorem State.withInbound_rx (s : State) (x : List PortItem) : (s.withInbound x).rx = s.rx := rfl
@[simp] theorem State.withInbound_inst (s : State) (x : List PortItem) : (s.withInbound x).inst = s.inst := rfl
@[simp] theorem State.withInbound_crcTable (s : State) (x : List PortItem) : (s.withInbound x).crcTable = s.crcTable := rfl
@[simp] theorem State.withInbound_link (s : State) (x : List PortItem) : (s.withInbound x).link = s.link := rfl
@[simp] theorem State.withInbound_inbound (s : State) (x : List PortItem) : (s.withInbound x).inbound = x := rfl
@[simp] theorem State.withInbound_returned (s : State) (x : List PortItem) : (s.withInbound x).returned = s.returned := rfl
@[simp] theorem State.withInbound_probe (s : State) (x : List PortItem) : (s.withInbound x).probe = s.probe := rfl
@[simp] theorem State.withInbound_freeCount (s : State) (x : List PortItem) : (s.withInbound x).freeCount = s.freeCount := rfl
@[simp] theorem State.withInbound_withInbound (s : State) (x y : List PortItem) : (s.withInbound x).withInbound y = s.withInbound y := rfl
@[simp] theorem State.withInbound_self (s : State) : s.withInbound s.inbound = s := rfl

/-! ### `withProbe` -/

@[simp] theorem State.withProbe_cfg (s : State) (x : Option Operation) : (s.withProbe x).cfg = s.cfg := rfl
@[simp] theorem State.withProbe_rx (s : State) (x : Option Operation) : (s.withProbe x).rx = s.rx := rfl
@[simp] theorem State.withProbe_inst (s : State) (x : Option Operation) : (s.withProbe x).inst = s.inst := rfl
@[simp] theorem State.withProbe_crcTable (s : State) (x : Option Operation) : (s.withProbe x).crcTable = s.crcTable := rfl
@[simp] theorem State.withProbe_link (s : State) (x : Option Operation) : (s.withProbe x).link = s.link := rfl
@[simp] theorem State.withProbe_inbound (s : State) (x : Option Operation) : (s.withProbe x).inbound = s.inbound := rfl
@[simp] theorem State.withProbe_returned (s : State) (x : Option Operation) : (s.withProbe x).returned = s.returned := rfl
@[simp] theorem State.withProbe_probe (s : State) (x : Option Operation) : (s.withProbe x).probe = x := rfl
@[simp] theorem State.withProbe_freeCount (s : State) (x : Option Operation) : (s.withProbe x).freeCount = s.freeCount := rfl
@[simp] theorem State.withProbe_withProbe (s : State) (x y : Option Operation) : (s.withProbe x).withProbe y = s.withProbe y := rfl
@[simp] theorem State.withProbe_self (s : State) : s.withProbe s.probe = s := rfl

end Sys2Proof.Machine
end

