-- ==== Sys2Proof/Laws/Ops.lean ====
section
/-! SUPPORT. For each shared operation, everything it can do, said once: the provers cite these instead of unfolding. -/

-- One theorem after the other: theorems elaborated side by side wait for one another, each wait on a thread of its own.
set_option Elab.async false

namespace Sys2Proof.Machine

/-! ### Answers and outcomes -/

@[simp] theorem ok_bind {α β : Type} (a : α) (f : α → Res β) : ((.ok a : Res α) >>= f) = f a := rfl

@[simp] theorem error_bind {α β : Type} (e : Fault) (f : α → Res β) : ((.error e : Res α) >>= f) = .error e := rfl

/-- A sequence answers exactly when both of its parts do. -/
theorem bind_eq_ok {α β : Type} {x : Res α} {f : α → Res β} {b : β} :
    (x >>= f) = .ok b ↔ ∃ a, x = .ok a ∧ f a = .ok b := by
  cases x with
  | ok a => simp
  | error e => simp

@[simp] theorem toOutcome_ok (s : State) : toOutcome (.ok s) = .next s := rfl

@[simp] theorem toOutcome_error (f : Fault) : toOutcome (.error f) = .fault f := rfl

/-- An outcome is a next state exactly when the operation answers it. -/
theorem toOutcome_eq_next {r : Res State} {t : State} : toOutcome r = .next t ↔ r = .ok t := by
  cases r <;> simp [toOutcome]

theorem inRxState_eq {st : RxState} {s : State} (h : s.rx.rxState = st) (r : Res State) :
    inRxState st s r = toOutcome r := by simp [inRxState, h]

/-- RXBYTE answers a next state only in the state it names. -/
theorem inRxState_next {st : RxState} {s t : State} {r : Res State} (h : inRxState st s r = .next t) :
    s.rx.rxState = st ∧ r = .ok t := by
  unfold inRxState at h
  split at h
  · exact ⟨‹_›, toOutcome_eq_next.mp h⟩
  · cases h

/-! ### Scratch buffer and records -/

theorem scratchRead_ok {s : State} {i : Nat} {b : Byte} (h : scratchRead s i = .ok b) :
    i < s.cfg.scratchSize ∧ b = Memory.read s.rx.scratch i := by
  unfold scratchRead at h
  split at h
  · exact ⟨‹_›, by cases h; rfl⟩
  · cases h

theorem scratchRead_eq {s : State} {i : Nat} (h : i < s.cfg.scratchSize) :
    scratchRead s i = .ok (Memory.read s.rx.scratch i) := if_pos h

/-- Reads inside the buffer answer its bytes in order. -/
theorem scratchReads_eq {s : State} (n i : Nat) (h : i + n ≤ s.cfg.scratchSize) :
    scratchReads s i n = .ok (scratchBytes s.rx.scratch i n) := by
  induction n generalizing i with
  | zero => rfl
  | succ n ih =>
    simp only [scratchReads, scratchRead_eq (show i < s.cfg.scratchSize by omega), ih (i + 1) (by omega), ok_bind]
    simp only [scratchBytes, List.range_succ_eq_map, List.map_cons, List.map_map, Nat.add_zero]
    congr 2
    apply List.map_congr_left
    intro t _
    simp only [Function.comp_apply]
    congr 1
    omega

theorem scratchReads_length {s : State} {n i : Nat} {bs : List Byte} (h : scratchReads s i n = .ok bs) :
    bs.length = n := by
  induction n generalizing i bs with
  | zero => cases h; rfl
  | succ n ih =>
    simp only [scratchReads, bind_eq_ok] at h
    obtain ⟨b, -, cs, hcs, hbs⟩ := h
    cases hbs
    simp [ih hcs]

theorem scratchWrite_ok {s t : State} {i : Nat} {v : Byte} (h : scratchWrite s i v = .ok t) :
    i < s.cfg.scratchSize ∧ t = s.withRx { s.rx with scratch := Memory.write s.rx.scratch i v } := by
  unfold scratchWrite at h
  split at h
  · exact ⟨‹_›, by cases h; rfl⟩
  · cases h

theorem scratchWrite_eq {s : State} {i : Nat} (v : Byte) (h : i < s.cfg.scratchSize) :
    scratchWrite s i v = .ok (s.withRx { s.rx with scratch := Memory.write s.rx.scratch i v }) := if_pos h

theorem recordRead_eq {s : State} {j : Nat} (h : j < s.rx.recs.length) : recordRead s j = .ok s.rx.recs[j] := by
  simp [recordRead, h]

theorem recordRead_ok {s : State} {j : Nat} {r : CmdRecord} (h : recordRead s j = .ok r) :
    ∃ hj : j < s.rx.recs.length, r = s.rx.recs[j] := by
  unfold recordRead at h
  split at h
  · rename_i q hq
    cases h
    obtain ⟨hj, e⟩ := List.getElem?_eq_some_iff.mp hq
    exact ⟨hj, e.symm⟩
  · cases h

theorem recordWrite_eq {s : State} {j : Nat} (r : CmdRecord) (h : j < s.rx.recs.length) :
    recordWrite s j r = .ok (s.withRx { s.rx with recs := s.rx.recs.set j r }) := if_pos h

theorem recordWrite_ok {s t : State} {j : Nat} {r : CmdRecord} (h : recordWrite s j r = .ok t) :
    j < s.rx.recs.length ∧ t = s.withRx { s.rx with recs := s.rx.recs.set j r } := by
  unfold recordWrite at h
  split at h
  · exact ⟨‹_›, by cases h; rfl⟩
  · cases h

/-! ### Sending -/

/-- The state after one send of the bytes `pkt`: the sequence count, the buffer, the stream and the transport move on. -/
def sentState (s : State) (kind : PacketKind) (pkt : List Byte) : State :=
  { s with
    inst := { s.inst with seq := s.inst.seq + 1 }
    link := { outbuf := pkt ++ s.link.outbuf.drop pkt.length
              outbound := s.link.outbound ++ [⟨kind, pkt⟩]
              inFlight := true
              drains := drainsAfter s.link } }

@[simp] theorem sentState_cfg (s : State) (k : PacketKind) (p : List Byte) : (sentState s k p).cfg = s.cfg := rfl
@[simp] theorem sentState_rx (s : State) (k : PacketKind) (p : List Byte) : (sentState s k p).rx = s.rx := rfl
@[simp] theorem sentState_inst (s : State) (k : PacketKind) (p : List Byte) :
    (sentState s k p).inst = { s.inst with seq := s.inst.seq + 1 } := rfl
@[simp] theorem sentState_crcTable (s : State) (k : PacketKind) (p : List Byte) :
    (sentState s k p).crcTable = s.crcTable := rfl
@[simp] theorem sentState_inbound (s : State) (k : PacketKind) (p : List Byte) :
    (sentState s k p).inbound = s.inbound := rfl
@[simp] theorem sentState_returned (s : State) (k : PacketKind) (p : List Byte) :
    (sentState s k p).returned = s.returned := rfl
@[simp] theorem sentState_probe (s : State) (k : PacketKind) (p : List Byte) :
    (sentState s k p).probe = s.probe := rfl
@[simp] theorem sentState_freeCount (s : State) (k : PacketKind) (p : List Byte) :
    (sentState s k p).freeCount = s.freeCount := rfl
@[simp] theorem sentState_outbound (s : State) (k : PacketKind) (p : List Byte) :
    (sentState s k p).link.outbound = s.link.outbound ++ [⟨k, p⟩] := rfl
@[simp] theorem sentState_inFlight (s : State) (k : PacketKind) (p : List Byte) :
    (sentState s k p).link.inFlight = true := rfl
@[simp] theorem sentState_drains (s : State) (k : PacketKind) (p : List Byte) :
    (sentState s k p).link.drains = drainsAfter s.link := rfl
@[simp] theorem sentState_outbuf (s : State) (k : PacketKind) (p : List Byte) :
    (sentState s k p).link.outbuf = p ++ s.link.outbuf.drop p.length := rfl

theorem drainsAfter_of_none {l : Link} (h : l.drains = none) : drainsAfter l = none := by simp [drainsAfter, h]

/-- The flush answers exactly when the machine can send. -/
theorem waitDrained_eq {s : State} (h : s.CanSend) :
    waitDrained s = .ok (s.withLink { s.link with inFlight := false, drains := drainsAfter s.link }) := by
  obtain ⟨cfg, rx, inst, tb, ⟨buf, out, fl, dr⟩, ib, ret, fc⟩ := s
  cases fl with
  | false => rfl
  | true =>
    cases dr with
    | none => rfl
    | some n =>
      cases n with
      | zero => simp [State.CanSend] at h
      | succ n => rfl

theorem waitDrained_ok {s t : State} (h : waitDrained s = .ok t) :
    s.CanSend ∧ t = s.withLink { s.link with inFlight := false, drains := drainsAfter s.link } := by
  by_cases hc : s.CanSend
  · rw [waitDrained_eq hc] at h; cases h; exact ⟨hc, rfl⟩
  · simp only [State.CanSend, not_or, not_not] at hc
    simp [waitDrained, hc.1, hc.2] at h

/-- The hold of rule R285. -/
theorem waitDrained_held {s : State} (h : ¬ s.CanSend) : waitDrained s = .error .heldInWaitDrained := by
  simp only [State.CanSend, not_or, not_not] at h
  simp [waitDrained, h.1, h.2]

@[simp] theorem wordBytes_length (v : Word) : (wordBytes v).length = 2 := rfl
@[simp] theorem longBytes_length (v : Long) : (longBytes v).length = 4 := rfl
@[simp] theorem packetHead_length (inst : Instrument) (apid : BitVec 11) (n : Nat) :
    (packetHead inst apid n).length = 16 := rfl

@[simp] theorem buildPacket_length (s : State) (apid : BitVec 11) (total : Nat) (payload : List Byte) :
    (buildPacket s apid total payload).length = payload.length + 18 := by
  simp [buildPacket]; omega

/-- What BuildPacket reads of the state: the instrument state and the table (rule R221). -/
theorem buildPacket_congr {s t : State} (hi : s.inst = t.inst) (ht : s.crcTable = t.crcTable) (apid : BitVec 11)
    (total : Nat) (payload : List Byte) : buildPacket s apid total payload = buildPacket t apid total payload := by
  simp [buildPacket, hi, ht]

/-- The packet a send builds: from the instrument state after SeqAdvance (rule R228). -/
def sentPacket (s : State) (apid : BitVec 11) (total : Nat) (payload : List Byte) : List Byte :=
  buildPacket (seqAdvance s) apid total payload

@[simp] theorem sentPacket_length (s : State) (apid : BitVec 11) (total : Nat) (payload : List Byte) :
    (sentPacket s apid total payload).length = payload.length + 18 := by simp [sentPacket]

theorem writeOutbuf_eq {s : State} {bytes : List Byte} (h : bytes.length ≤ statusTotal) :
    writeOutbuf s bytes = .ok (s.withLink { s.link with outbuf := bytes ++ s.link.outbuf.drop bytes.length }) := if_pos h

theorem writeOutbuf_ok {s t : State} {bytes : List Byte} (h : writeOutbuf s bytes = .ok t) :
    bytes.length ≤ statusTotal ∧ t = s.withLink { s.link with outbuf := bytes ++ s.link.outbuf.drop bytes.length } := by
  unfold writeOutbuf at h
  split at h
  · exact ⟨‹_›, by cases h; rfl⟩
  · cases h

/-- A send that can be sent, of a packet whose size is as declared and fits the buffer. -/
theorem send_eq {s : State} (hc : s.CanSend) (kind : PacketKind) (apid : BitVec 11) {total : Nat} {payload : List Byte}
    (ht : total = payload.length + 18) (hb : total ≤ statusTotal) :
    send s kind apid total payload = .ok (sentState s kind (sentPacket s apid total payload)) := by
  subst ht
  have h1 := waitDrained_eq (s := seqAdvance s) hc
  simp only [send, h1, ok_bind]
  generalize hu : (seqAdvance s).withLink _ = u
  have hi : u.inst = (seqAdvance s).inst := by rw [← hu]; rfl
  have ht : u.crcTable = (seqAdvance s).crcTable := by rw [← hu]; rfl
  rw [buildPacket_congr hi ht, writeOutbuf_eq (by simpa using hb), ok_bind]
  subst hu
  simp only [emit, State.withLink_link, State.withLink_withLink]
  rw [List.take_left' (by simp)]
  rfl

/-- Everything a send of a packet of the declared size can do. -/
theorem send_ok {s t : State} {kind : PacketKind} {apid : BitVec 11} {total : Nat} {payload : List Byte}
    (ht : total = payload.length + 18) (h : send s kind apid total payload = .ok t) :
    s.CanSend ∧ total ≤ statusTotal ∧ t = sentState s kind (sentPacket s apid total payload) := by
  have h0 := h
  simp only [send, bind_eq_ok] at h
  obtain ⟨u, hu, v, hv, -⟩ := h
  obtain ⟨hc, rfl⟩ := waitDrained_ok hu
  have hc : s.CanSend := hc
  have hb : total ≤ statusTotal := by
    have := (writeOutbuf_ok hv).1
    simp at this
    omega
  exact ⟨hc, hb, by rw [send_eq hc kind apid ht hb] at h0; cases h0; rfl⟩

theorem send_held {s : State} (hc : ¬ s.CanSend) (kind : PacketKind) (apid : BitVec 11) (total : Nat)
    (payload : List Byte) : send s kind apid total payload = .error .heldInWaitDrained := by
  have h1 : waitDrained (seqAdvance s) = _ := waitDrained_held (s := seqAdvance s) hc
  simp [send, h1]

/-- Raising an alarm: one packet and the sequence count (rule R260). -/
theorem raiseAlarm_eq {s : State} (hc : s.CanSend) (code : AlarmCode) :
    raiseAlarm s code = .ok (sentState s .alarm (sentPacket s apidAlarm alarmTotal (alarmPayload code))) :=
  send_eq hc _ _ rfl (by decide)

theorem raiseAlarm_ok {s t : State} {code : AlarmCode} (h : raiseAlarm s code = .ok t) :
    s.CanSend ∧ t = sentState s .alarm (sentPacket s apidAlarm alarmTotal (alarmPayload code)) := by
  obtain ⟨hc, -, e⟩ := send_ok (total := alarmTotal) (payload := alarmPayload code) rfl h
  exact ⟨hc, e⟩

/-- A Status: one packet, the sequence count and the heartbeat (rule R229). -/
theorem sendStatus_eq {s : State} (hc : s.CanSend) :
    sendStatus s = .ok (hbToggle (sentState s .status (sentPacket s apidStatus statusTotal statusPayload))) := by
  have h := send_eq hc .status apidStatus (total := statusTotal) (payload := statusPayload) (by simp [statusTotal, statusPayload]) le_rfl
  simp only [sendStatus, h, ok_bind]

theorem sendStatus_ok {s t : State} (h : sendStatus s = .ok t) :
    s.CanSend ∧ t = hbToggle (sentState s .status (sentPacket s apidStatus statusTotal statusPayload)) := by
  by_cases hc : s.CanSend
  · rw [sendStatus_eq hc] at h; cases h; exact ⟨hc, rfl⟩
  · simp [sendStatus, send_held hc] at h

@[simp] theorem echoPayload_length (opcode : Byte) (args : List Byte) (result : Byte) :
    (echoPayload opcode args result).length = 2 + args.length + args.length % 2 := by
  simp [echoPayload]; omega

theorem echoTotal_eq (opcode : Byte) (args : List Byte) (result : Byte) :
    echoTotal args.length = (echoPayload opcode args result).length + 18 := by simp [echoTotal]; omega

theorem echoTotal_le {n : Nat} (h : n ≤ maxArgs) : echoTotal n ≤ statusTotal := by
  simp only [maxArgs] at h; simp only [echoTotal, statusTotal]; omega

/-- An Echo: one packet, the sequence count and the heartbeat (rule R230). -/
theorem sendEcho_eq {s : State} (hc : s.CanSend) (opcode : Byte) {args : List Byte} (ha : args.length ≤ maxArgs)
    (result : Byte) :
    sendEcho s opcode args result =
      .ok (hbToggle (sentState s .echo
        (sentPacket s apidEcho (echoTotal args.length) (echoPayload opcode args result)))) := by
  simp [sendEcho, echoArgsOk, ha, send_eq hc .echo apidEcho (echoTotal_eq opcode args result) (echoTotal_le ha)]

theorem sendEcho_ok {s t : State} {opcode : Byte} {args : List Byte} {result : Byte}
    (h : sendEcho s opcode args result = .ok t) :
    s.CanSend ∧ args.length ≤ maxArgs ∧
      t = hbToggle (sentState s .echo
        (sentPacket s apidEcho (echoTotal args.length) (echoPayload opcode args result))) := by
  by_cases ha : args.length ≤ maxArgs
  · by_cases hc : s.CanSend
    · rw [sendEcho_eq hc opcode ha] at h; cases h; exact ⟨hc, ha, rfl⟩
    · simp [sendEcho, echoArgsOk, ha, send_held hc] at h
  · simp [sendEcho, echoArgsOk, ha] at h

/-! ### What a record holds of a scratch index -/

theorem recordOffset_toNat (i : Nat) : (recordOffset i).toNat = i % 256 := by simp [recordOffset]

/-- A recorded offset never lies above the index it was written from, so a live record stays inside the scratch buffer (rule
R61). -/
theorem recordOffset_le (i : Nat) : (recordOffset i).toNat ≤ i := by
  rw [recordOffset_toNat]; exact Nat.mod_le i 256

/-! ### Frames: what the sends leave alone -/

/-- What a send never touches. -/
structure SameBlock (s t : State) : Prop where
  cfg : t.cfg = s.cfg
  rx : t.rx = s.rx
  crcTable : t.crcTable = s.crcTable
  inbound : t.inbound = s.inbound
  returned : t.returned = s.returned
  probe : t.probe = s.probe
  freeCount : t.freeCount = s.freeCount
  pw : t.inst.pw = s.inst.pw
  met : t.inst.met = s.inst.met
  sic : t.inst.sic = s.inst.sic
  pendingTime : t.inst.pendingTime = s.inst.pendingTime
  timeReceived : t.inst.timeReceived = s.inst.timeReceived
  drains : s.link.drains = none → t.link.drains = none

theorem SameBlock.refl (s : State) : SameBlock s s := ⟨rfl, rfl, rfl, rfl, rfl, rfl, rfl, rfl, rfl, rfl, rfl, rfl, id⟩

theorem SameBlock.trans {s t u : State} (h : SameBlock s t) (k : SameBlock t u) : SameBlock s u :=
  ⟨k.cfg.trans h.cfg, k.rx.trans h.rx, k.crcTable.trans h.crcTable, k.inbound.trans h.inbound,
    k.returned.trans h.returned, k.probe.trans h.probe, k.freeCount.trans h.freeCount, k.pw.trans h.pw, k.met.trans h.met,
    k.sic.trans h.sic, k.pendingTime.trans h.pendingTime, k.timeReceived.trans h.timeReceived, fun e => k.drains (h.drains e)⟩

theorem sentState_same (s : State) (k : PacketKind) (p : List Byte) : SameBlock s (sentState s k p) :=
  ⟨rfl, rfl, rfl, rfl, rfl, rfl, rfl, rfl, rfl, rfl, rfl, rfl, fun h => drainsAfter_of_none h⟩

theorem hbToggle_same (s : State) : SameBlock s (hbToggle s) := ⟨rfl, rfl, rfl, rfl, rfl, rfl, rfl, rfl, rfl, rfl, rfl, rfl, id⟩

theorem raiseAlarm_same {s t : State} {code : AlarmCode} (h : raiseAlarm s code = .ok t) : SameBlock s t := by
  obtain ⟨-, rfl⟩ := raiseAlarm_ok h; exact sentState_same ..

theorem sendStatus_same {s t : State} (h : sendStatus s = .ok t) : SameBlock s t := by
  obtain ⟨-, rfl⟩ := sendStatus_ok h; exact (sentState_same ..).trans (hbToggle_same _)

theorem sendEcho_same {s t : State} {opcode : Byte} {args : List Byte} {result : Byte}
    (h : sendEcho s opcode args result = .ok t) : SameBlock s t := by
  obtain ⟨-, -, rfl⟩ := sendEcho_ok h; exact (sentState_same ..).trans (hbToggle_same _)

theorem echoRecord_same {s t : State} {j : Nat} (h : echoRecord s j = .ok t) : SameBlock s t := by
  simp only [echoRecord, bind_eq_ok] at h
  obtain ⟨r, -, o, -, as, -, h⟩ := h
  exact sendEcho_same h

theorem echoRecords_same {n j : Nat} {s t : State} (h : echoRecords n j s = .ok t) : SameBlock s t := by
  induction n generalizing j s with
  | zero => cases h; exact .refl _
  | succ n ih =>
    simp only [echoRecords, bind_eq_ok] at h
    obtain ⟨u, hu, h⟩ := h
    exact (echoRecord_same hu).trans (ih h)

/-- Dispatch writes `seq`, `hb` and the outbound side only (rule R220). -/
theorem dispatch_same {s t : State} (h : dispatch s = .ok t) : SameBlock s t := echoRecords_same h

/-! ### The receiver's helpers -/

@[simp] theorem rxReset_rx (s : State) : (rxReset s).rx = rxCleared s.cfg := rfl
@[simp] theorem rxReset_cfg (s : State) : (rxReset s).cfg = s.cfg := rfl
@[simp] theorem rxReset_inst (s : State) : (rxReset s).inst = s.inst := rfl
@[simp] theorem rxReset_crcTable (s : State) : (rxReset s).crcTable = s.crcTable := rfl
@[simp] theorem rxReset_link (s : State) : (rxReset s).link = s.link := rfl
@[simp] theorem rxReset_inbound (s : State) : (rxReset s).inbound = s.inbound := rfl
@[simp] theorem rxReset_returned (s : State) : (rxReset s).returned = s.returned := rfl
@[simp] theorem rxReset_probe (s : State) : (rxReset s).probe = s.probe := rfl
@[simp] theorem rxReset_freeCount (s : State) : (rxReset s).freeCount = s.freeCount := rfl
/-- RxReset twice is RxReset once (rule R140). -/
@[simp] theorem rxReset_rxReset (s : State) : rxReset (rxReset s) = rxReset s := rfl

/-- The state before the outcome of a state rule is known: the one it carries. -/
def After.state : After → State
  | .aborted s => s
  | .goesOn s => s

theorem abortWith_ok {s : State} {code : AlarmCode} {a : After} (h : abortWith s code = .ok a) :
    ∃ t, raiseAlarm s code = .ok t ∧ a = .aborted (rxReset t) := by
  simp only [abortWith, bind_eq_ok] at h
  obtain ⟨t, ht, h⟩ := h
  exact ⟨t, ht, by cases h; rfl⟩

theorem alarmToCmdStart_ok {s : State} {code : AlarmCode} {a : After} (h : alarmToCmdStart s code = .ok a) :
    ∃ t, raiseAlarm s code = .ok t ∧ a = .goesOn (toCmdStart t) := by
  simp only [alarmToCmdStart, bind_eq_ok] at h
  obtain ⟨t, ht, h⟩ := h
  exact ⟨t, ht, by cases h; rfl⟩

/-- BeginCommand: the count limit aborts, else a command begins with nothing stored (rule R154). -/
theorem beginCommand_ok {s : State} {c0 : Word} {a : After} (h : beginCommand s c0 = .ok a) :
    (s.cfg.maxCmds ≤ s.rx.cmdK ∧ ∃ t, raiseAlarm s .itfLength = .ok t ∧ a = .aborted (rxReset t)) ∨
    (s.rx.cmdK < s.cfg.maxCmds ∧ a = .goesOn (s.withRx { s.rx with
      cmdC := c0, cmdStartWp := s.rx.wp, cmdLen := 0, cmdPad := false, cmdEnd := 0, rxState := .cmd, idleCnt := 0 })) := by
  unfold beginCommand at h
  split at h
  · exact .inl ⟨‹_›, abortWith_ok h⟩
  · exact .inr ⟨by omega, by cases h; rfl⟩

/-- The record file with record `k - 1`'s argument count cleared, where an excision of slot `k` does that (rule R153). -/
def predCleared (cfg : Config) (recs : List CmdRecord) (k : Nat) : List CmdRecord :=
  if cfg.exciseClearsPredCount && decide (1 ≤ k) then recs.modify (k - 1) (fun r => { r with cnt := 0 }) else recs

/-- The record file after an excision of slot `k` (rule R153). -/
def excisedRecs (cfg : Config) (recs : List CmdRecord) (k : Nat) : List CmdRecord :=
  predCleared cfg (recs.set k ⟨0, 0⟩) k

theorem clearPredecessorCount_eq {s : State} (h : s.rx.cmdK < s.rx.recs.length) :
    clearPredecessorCount s = .ok (s.withRx { s.rx with recs := predCleared s.cfg s.rx.recs s.rx.cmdK }) := by
  have hk : s.rx.cmdK - 1 < s.rx.recs.length := by omega
  unfold clearPredecessorCount predCleared
  split
  · rw [recordRead_eq hk, ok_bind, recordWrite_eq _ hk, List.modify_eq_set_getElem?]
    simp [hk]
  · rfl

/-- Excise with a slot inside the record file (rule R153). -/
theorem excise_eq {s : State} (h : s.rx.cmdK < s.rx.recs.length) :
    excise s = .ok (s.withRx { s.rx with
      recs := excisedRecs s.cfg s.rx.recs s.rx.cmdK, wp := s.rx.cmdStartWp, cmdC := 0, cmdLen := 0, cmdPad := false,
      cmdEnd := 0 }) := by
  rw [excise, recordWrite_eq _ h, ok_bind, clearPredecessorCount_eq (by simpa using h), ok_bind]
  rfl

theorem excise_ok {s t : State} (h : excise s = .ok t) :
    s.rx.cmdK < s.rx.recs.length ∧ t = s.withRx { s.rx with
      recs := excisedRecs s.cfg s.rx.recs s.rx.cmdK, wp := s.rx.cmdStartWp, cmdC := 0, cmdLen := 0, cmdPad := false,
      cmdEnd := 0 } := by
  by_cases hk : s.rx.cmdK < s.rx.recs.length
  · rw [excise_eq hk] at h; cases h; exact ⟨hk, rfl⟩
  · simp [excise, recordWrite, hk] at h

@[simp] theorem excisedRecs_length (cfg : Config) (recs : List CmdRecord) (k : Nat) :
    (excisedRecs cfg recs k).length = recs.length := by
  unfold excisedRecs predCleared; split <;> simp

/-- EndOfFrame: dispatch on a zero residue, else one checksum alarm, then RxReset (rule R158). -/
theorem endOfFrame_ok {s t : State} (h : endOfFrame s = .ok t) :
    ∃ u, t = rxReset u ∧
      ((s.rx.crc = 0 ∧ dispatch s = .ok u) ∨ (s.rx.crc ≠ 0 ∧ raiseAlarm s .itfChecksum = .ok u)) := by
  simp only [endOfFrame, bind_eq_ok] at h
  obtain ⟨u, hu, h⟩ := h
  refine ⟨u, by cases h; rfl, ?_⟩
  simp only [frameVerdict, crcResiduePass, decide_eq_true_eq] at hu
  split at hu
  · exact .inl ⟨‹_›, hu⟩
  · exact .inr ⟨‹_›, hu⟩

/-! ### Time -/

/-- StatusTick: `sic` counts, and a Status that is due is sent and clears it (rule R205). -/
theorem statusTick_ok {s t : State} (h : statusTick s = .ok t) :
    let u := s.withInst { s.inst with sic := s.inst.sic + 1 }
    (statusDue u.cfg u.inst = false ∧ t = u) ∨
    (statusDue u.cfg u.inst = true ∧ ∃ v, sendStatus u = .ok v ∧ t = v.withInst { v.inst with sic := 0 }) := by
  intro u
  have h : (if statusDue u.cfg u.inst then (do
      let s ← sendStatus u
      .ok (s.withInst { s.inst with sic := 0 })) else .ok u) = Except.ok t := h
  split at h
  · simp only [bind_eq_ok] at h
    obtain ⟨v, hv, h⟩ := h
    exact .inr ⟨‹_›, v, hv, by cases h; rfl⟩
  · rename_i hd
    exact .inl ⟨by simpa using hd, (Except.ok.inj h).symm⟩

/-- What a time advance leaves alone (rule R204). -/
theorem metAdvance_frame {s t : State} (h : metAdvance s = .ok t) :
    t.cfg = s.cfg ∧ t.rx = s.rx ∧ t.crcTable = s.crcTable ∧ t.inbound = s.inbound ∧ t.returned = s.returned ∧
      t.probe = s.probe ∧ t.freeCount = s.freeCount ∧ t.inst.pw = s.inst.pw ∧ t.inst.pendingTime = s.inst.pendingTime ∧
      (s.link.drains = none → t.link.drains = none) := by
  have hm : (metNext s.inst).pw = s.inst.pw ∧ (metNext s.inst).pendingTime = s.inst.pendingTime := by
    unfold metNext; split <;> exact ⟨rfl, rfl⟩
  rcases statusTick_ok h with ⟨-, rfl⟩ | ⟨-, v, hv, rfl⟩
  · exact ⟨rfl, rfl, rfl, rfl, rfl, rfl, rfl, hm.1, hm.2, id⟩
  · have f := sendStatus_same hv
    exact ⟨f.cfg, f.rx, f.crcTable, f.inbound, f.returned, f.probe, f.freeCount, f.pw.trans hm.1, f.pendingTime.trans hm.2,
      f.drains⟩

end Sys2Proof.Machine
end

