-- ==== Sys2Proof/Laws/PerInstr.lean ====
section
/-! SUPPORT. A family of lemmas with one member per constructor of `Instr`: the fixed bits of the operation words. -/

-- One theorem after the other: theorems elaborated side by side wait for one another, each wait on a thread of its own.
set_option Elab.async false

namespace Sys2Proof.Laws

/-- Bit 11 of a word made from fields is zero (rule R96). -/
theorem operationWord_bit11 (sel : BitVec 4) (st : BitVec 3) (d : Byte) : bit11 (operationWord sel st d) = false := by
  simp [bit11, operationWord]

/-- The selector field of a word made from fields (rule R96). -/
theorem operationWord_selector (sel : BitVec 4) (st : BitVec 3) (d : Byte) :
    selectorField (operationWord sel st d) = sel := by
  unfold selectorField operationWord
  ext i hi
  interval_cases i <;> simp

/-- The operation word of an instruction has bit 11 clear and not the reserved selector 0xF (rules R96, R97). -/
def FixedBits.Statement (i : Instr) : Prop :=
  bit11 (encode i).word = false ∧ selectorField (encode i).word ≠ 0xF

/-- Any word made from fields with another selector has the fixed bits. -/
theorem fixedBits_of_fields (sel : BitVec 4) (st : BitVec 3) (d : Byte) (h : sel ≠ 0xF) :
    bit11 (operationWord sel st d) = false ∧ selectorField (operationWord sel st d) ≠ 0xF :=
  ⟨operationWord_bit11 sel st d, by rw [operationWord_selector]; exact h⟩

theorem FixedBits.reset : FixedBits.Statement .reset :=
  fixedBits_of_fields _ _ _ (by decide)

theorem FixedBits.rxByteIdle (b : Byte) : FixedBits.Statement (.rxByteIdle b) :=
  fixedBits_of_fields _ _ _ (by decide)

theorem FixedBits.rxByteLength (b : Byte) : FixedBits.Statement (.rxByteLength b) :=
  fixedBits_of_fields _ _ _ (by decide)

theorem FixedBits.rxByteTimeStart (b : Byte) : FixedBits.Statement (.rxByteTimeStart b) :=
  fixedBits_of_fields _ _ _ (by decide)

theorem FixedBits.rxByteTime (b : Byte) : FixedBits.Statement (.rxByteTime b) :=
  fixedBits_of_fields _ _ _ (by decide)

theorem FixedBits.rxByteCmdStart (b : Byte) : FixedBits.Statement (.rxByteCmdStart b) :=
  fixedBits_of_fields _ _ _ (by decide)

theorem FixedBits.rxByteCmd (b : Byte) : FixedBits.Statement (.rxByteCmd b) :=
  fixedBits_of_fields _ _ _ (by decide)

theorem FixedBits.buildTable : FixedBits.Statement .buildTable :=
  fixedBits_of_fields _ _ _ (by decide)

theorem FixedBits.crcUpdate (c : Word) (b : Byte) : FixedBits.Statement (.crcUpdate c b) :=
  fixedBits_of_fields _ _ _ (by decide)

theorem FixedBits.seqAdvance : FixedBits.Statement .seqAdvance :=
  fixedBits_of_fields _ _ _ (by decide)

theorem FixedBits.seqReset : FixedBits.Statement .seqReset :=
  fixedBits_of_fields _ _ _ (by decide)

theorem FixedBits.hbToggle : FixedBits.Statement .hbToggle :=
  fixedBits_of_fields _ _ _ (by decide)

theorem FixedBits.pwrToggle : FixedBits.Statement .pwrToggle :=
  fixedBits_of_fields _ _ _ (by decide)

theorem FixedBits.metAdvance : FixedBits.Statement .metAdvance :=
  fixedBits_of_fields _ _ _ (by decide)

theorem FixedBits.dispatch : FixedBits.Statement .dispatch :=
  fixedBits_of_fields _ _ _ (by decide)

theorem FixedBits.sendStatus : FixedBits.Statement .sendStatus :=
  fixedBits_of_fields _ _ _ (by decide)

theorem FixedBits.sendEcho (opcode : Byte) (args : List Byte) (result : Byte) : FixedBits.Statement (.sendEcho opcode args result) :=
  fixedBits_of_fields _ _ _ (by decide)

theorem FixedBits.sendAlarm (code : AlarmCode) : FixedBits.Statement (.sendAlarm code) :=
  fixedBits_of_fields _ _ _ (by decide)

theorem FixedBits.rxReset : FixedBits.Statement .rxReset :=
  fixedBits_of_fields _ _ _ (by decide)

theorem FixedBits.crcResidueCheck (c : Word) : FixedBits.Statement (.crcResidueCheck c) :=
  fixedBits_of_fields _ _ _ (by decide)

end Sys2Proof.Laws
end

