-- ==== Sys2Proof/Tests/Slice0.lean ====
section
/-! SUPPORT. The model's own tests: the WellFormed smoke, the decoder on words written out from rule R96, one step of each
operation on the values of 95_test_vectors.md, and for each statement with hypotheses a state that meets them. -/

-- One theorem after the other: theorems elaborated side by side wait for one another, each wait on a thread of its own.
set_option Elab.async false

namespace Sys2Proof.Tests

open Sys2Proof Sys2Proof.Machine

/-! ### Helpers -/

/-- The next state of an outcome. -/
def nextOf : Host.Outcome State Fault Refusal → Option State
  | .next t => some t
  | .fault _ | .refused _ => none

/-- The bytes of the packets a step left in the outbound stream. -/
def packetsOf (o : Host.Outcome State Fault Refusal) : Option (List (List Byte)) :=
  (nextOf o).map fun t => t.link.outbound.map Packet.bytes

/-- The receiver after a step. -/
def rxOf (o : Host.Outcome State Fault Refusal) : Option Receiver := (nextOf o).map State.rx

/-- The instrument state after a step. -/
def instOf (o : Host.Outcome State Fault Refusal) : Option Instrument := (nextOf o).map State.inst

/-- The reason of a fault. -/
def faultOf : Host.Outcome State Fault Refusal → Option Fault
  | .fault f => some f
  | .next _ | .refused _ => none

/-- The reason of a refusal. -/
def refusalOf : Host.Outcome State Fault Refusal → Option Refusal
  | .refused r => some r
  | .next _ | .fault _ => none

/-- An outcome with a next state is that next state. -/
theorem exists_next (o : Host.Outcome State Fault Refusal) (h : (nextOf o).isSome = true) : ∃ t, o = .next t := by
  cases o with
  | next t => exact ⟨t, rfl⟩
  | fault f => simp [nextOf] at h
  | refused r => simp [nextOf] at h

/-- The operation a word without operands beside it decodes to. -/
def decodesTo (w : Word) (i : Instr) : Bool := decide (decode ⟨w, .nothing⟩ = .ok i)

/-- The reserved class a word is refused with. -/
def refusedWith (w : Word) (x : Beside) (e : DecodeError) : Bool := decide (decode ⟨w, x⟩ = .error e)

/-- A receiver in `st` at position `pos` of a frame that ends at position 60. -/
def rxAt (st : RxState) (pos : Nat) : Receiver :=
  { rxCleared Config.default with rxState := st, pos := pos, lenOk := true, frameEnd := 60 }

/-- The reset state with another receiver. -/
def withReceiver (rx : Receiver) : State := State.reset.withRx rx

/-- The reset state with the receiver in `st` at position `pos`. -/
def lockedAt (st : RxState) (pos : Nat) : State := withReceiver (rxAt st pos)

/-- The reset state with other parameters. -/
def withConfig (f : Config → Config) : State := State.powerOn (f Config.default)

/-- The reset state with a packet in flight and a transport that never drains. -/
def stalled : State :=
  State.reset.withLink { outbuf := List.replicate 140 0, outbound := [], inFlight := true, drains := some 0 }

/-- The reset state with one complete command: opcode 0xAB, argument 0xCD. -/
def oneRecord : State :=
  withReceiver { rxAt .cmdStart 18 with
    scratch := [(0, 0xAB), (1, 0xCD)], recs := (recsCleared Config.default).set 0 ⟨0, 1⟩, cmdK := 1, wp := 2 }

/-- The CMD state with the command byte counter at `c`, declared length `cl`, end at `e`. -/
def inCommand (c cl e : Word) : Receiver := { rxAt .cmd 20 with cmdC := c, cmdLen := cl, cmdEnd := e }

/-- Ten argument bytes, the most an Echo carries. -/
def tenArgs : List Byte := [1, 2, 3, 4, 5, 6, 7, 8, 9, 10]

/-! ### WellFormed (rule R230) -/

theorem test_wellFormed_echo_ten_args : (Instr.sendEcho 0x42 tenArgs 0).WellFormed = true := by decide

theorem test_wellFormed_refuses_eleven_args : (Instr.sendEcho 0x42 (0 :: tenArgs) 0).WellFormed = false := by decide

/-! ### Decoding: words written out from the fields of rule R96 (selector, bit 11, state, data) and from V28 -/

theorem test_decode_reset : decodesTo 0x0000 .reset = true := by decide

theorem test_decode_rxbyte_idle : decodesTo 0x10FE (.rxByteIdle 0xFE) = true := by decide

theorem test_decode_rxbyte_length : decodesTo 0x1120 (.rxByteLength 0x20) = true := by decide

theorem test_decode_rxbyte_time_start : decodesTo 0x121B (.rxByteTimeStart 0x1B) = true := by decide

theorem test_decode_rxbyte_time : decodesTo 0x1378 (.rxByteTime 0x78) = true := by decide

theorem test_decode_rxbyte_cmd_start : decodesTo 0x1400 (.rxByteCmdStart 0x00) = true := by decide

theorem test_decode_rxbyte_cmd : decodesTo 0x150F (.rxByteCmd 0x0F) = true := by decide

theorem test_decode_buildtable : decodesTo 0x2000 .buildTable = true := by decide

theorem test_decode_seqadvance : decodesTo 0x4000 .seqAdvance = true := by decide

theorem test_decode_seqreset : decodesTo 0x5000 .seqReset = true := by decide

theorem test_decode_hbtoggle : decodesTo 0x6000 .hbToggle = true := by decide

theorem test_decode_pwrtoggle : decodesTo 0x7000 .pwrToggle = true := by decide

theorem test_decode_metadvance : decodesTo 0x8000 .metAdvance = true := by decide

theorem test_decode_dispatch : decodesTo 0x9000 .dispatch = true := by decide

theorem test_decode_sendstatus : decodesTo 0xA000 .sendStatus = true := by decide

theorem test_decode_rxreset : decodesTo 0xD000 .rxReset = true := by decide

theorem test_decode_crcupdate : decode ⟨0x3000, .crcByte 0x1234 0x56⟩ = .ok (.crcUpdate 0x1234 0x56) := by decide

theorem test_decode_sendecho : decode ⟨0xB000, .echo 0x42 [1, 2] 0⟩ = .ok (.sendEcho 0x42 [1, 2] 0) := by decide

theorem test_decode_crcresiduecheck : decode ⟨0xE000, .crc 0x1021⟩ = .ok (.crcResidueCheck 0x1021) := by decide

theorem test_decode_sendalarm :
    decodesTo 0xC001 (.sendAlarm .itfLength) ∧ decodesTo 0xC002 (.sendAlarm .itfChecksum) ∧
      decodesTo 0xC003 (.sendAlarm .ccsdsFormat) ∧ decodesTo 0xC004 (.sendAlarm .ccsdsApid) ∧
      decodesTo 0xC005 (.sendAlarm .ccsdsLength) := by decide

theorem test_decode_refuses_bit11 : refusedWith 0x0800 .nothing .bit11Set = true := by decide

theorem test_decode_refuses_selector_f : refusedWith 0xF000 .nothing .reservedSelector = true := by decide

theorem test_decode_refuses_rxbyte_states :
    refusedWith 0x1600 .nothing .reservedRxState ∧ refusedWith 0x17FF .nothing .reservedRxState := by decide

theorem test_decode_refuses_state_field : refusedWith 0xA100 .nothing .stateFieldNotZero = true := by decide

theorem test_decode_refuses_alarm_codes :
    refusedWith 0xC000 .nothing .alarmCodeOutOfRange ∧ refusedWith 0xC006 .nothing .alarmCodeOutOfRange := by decide

theorem test_decode_refuses_data_bits :
    refusedWith 0xA001 .nothing .dataBitsNotZero ∧ refusedWith 0x3056 (.crcByte 0 0) .dataBitsNotZero := by decide

/-- Words in two reserved classes: which name they get is the model's choice (log entry 17). -/
theorem test_decode_refuses_by_the_first_class :
    refusedWith 0xF800 .nothing .bit11Set ∧ refusedWith 0xF101 .nothing .reservedSelector ∧
      refusedWith 0x2101 .nothing .stateFieldNotZero ∧ refusedWith 0xC100 .nothing .stateFieldNotZero ∧
      refusedWith 0x2001 (.crc 0) .dataBitsNotZero := by decide

theorem test_decode_refuses_operands_beside : refusedWith 0x2000 (.crc 0) .besideMismatch = true := by decide

theorem test_table_word_runs_as_fetched :
    decodeTableWord 16 0x150F = some (.rxByteCmd 0x0F) ∧
      refusalOf (step (State.reset.withFetchWord 16 0xF000)) = some (.reservedWord .reservedSelector) := by decide

/-! ### The scratch buffer (rules R25, R60) -/

theorem test_memory_write_keeps_the_form :
    Memory.write (Memory.write (Memory.write [] 3 0x11) 1 0x22) 3 0x00 = [(1, 0x22)] ∧
      Memory.read [(1, 0x22)] 3 = 0x00 := by decide

/-! ### One step of each operation -/

/-- Rule R281, after a state with a frame in progress and the power bit set. -/
theorem test_reset_clears :
    (nextOf (exec .reset (pwrToggle oneRecord))).map (fun t => (t.rx, t.inst, t.link.outbound)) =
      some (rxCleared Config.default, instrumentPowerOn, []) := by decide +kernel

/-- Rules R21, R281: RESET from the port; with the port empty the block stands still. -/
theorem test_reset_from_the_port :
    rxOf (step { oneRecord with inbound := [.reset] }) = some (rxCleared Config.default) ∧
      rxOf (step oneRecord) = some oneRecord.rx := by decide +kernel

/-- V5a, its last byte: the marker is complete; LENGTH, `pos` 4, `met` 1, `sic` 1. -/
theorem test_rxbyte_idle_finds_sync :
    (nextOf (exec (.rxByteIdle 0xC8) (withReceiver { rxCleared Config.default with syncWin := 0x00FEFA30 }))).map
      (fun t => (t.rx.syncWin, t.rx.rxState, t.rx.pos, t.inst.met, t.inst.sic)) = some (0, .length, 4, 1, 1) := by
  decide +kernel

/-- V5b, its last byte: no sync yet. -/
theorem test_rxbyte_idle_shifts :
    rxOf (exec (.rxByteIdle 0x30) (withReceiver { rxCleared Config.default with syncWin := 0x0000FEFA })) =
      some { rxCleared Config.default with syncWin := 0x00FEFA30 } := by decide +kernel

/-- V6a, its sixth byte, at `met` 0: the packet is that of V25, code 3, and the receiver is back in IDLE. -/
theorem test_rxbyte_length_format :
    (nextOf (exec (.rxByteLength 0x0E) (withReceiver { rxAt .length 5 with lenOk := false, last := 0x20 }))).map
      (fun t => (t.link.outbound.map Packet.bytes, t.rx)) =
    some ([[0xFE, 0xFA, 0x30, 0xC8, 0x00, 0x10, 0x0B, 0x02, 0xC0, 0x01, 0x00, 0x06, 0x00, 0x00, 0x00, 0x00, 0x03, 0x00,
        0x00, 0x00, 0xA6, 0x72]], rxCleared Config.default) := by decide +kernel

/-- V6e: L = 14 is accepted, and the frame ends at 20. -/
theorem test_rxbyte_length_accepted :
    (rxOf (exec (.rxByteLength 0x0E) (withReceiver { rxAt .length 5 with lenOk := false, frameEnd := 0 }))).map
      (fun rx => (rx.rxState, rx.lenOk, rx.frameEnd)) = some (.timeStart, true, 20) := by decide +kernel

/-- V10 at p = 10: the command marker starts command 0 with c = 4. -/
theorem test_rxbyte_time_start_begins_a_command :
    (rxOf (exec (.rxByteTimeStart 0x00) (withReceiver { rxAt .timeStart 9 with subHdr := 0x1B00 }))).map
      (fun rx => (rx.rxState, rx.cmdC)) = some (.cmd, 4) := by decide +kernel

/-- V7b at p = 10: APID 0x305 is not known, so CCSDS_APID, and on to CMD_START. -/
theorem test_rxbyte_time_start_unknown_apid :
    (nextOf (exec (.rxByteTimeStart 0x00) (withReceiver { rxAt .timeStart 9 with subHdr := 0x0B05 }))).map
      (fun t => (t.link.outbound.map (fun p => p.bytes.getD 16 0), t.rx.rxState)) = some ([4], .cmdStart) := by
  decide +kernel

/-- V8a at p = 18: the capture is the four bytes 12 34 56 78. -/
theorem test_rxbyte_time_captures :
    (instOf (exec (.rxByteTime 0x78) (withReceiver { rxAt .time 17 with timeSr := 0x00123456 }))).map
      (fun i => (i.pendingTime, i.timeReceived, i.met)) = some (0x12345678, true, 0) := by decide +kernel

/-- V8d at p = 48: the last reserved byte is tested before the deferred alarm. -/
theorem test_rxbyte_time_deferred_alarm :
    (nextOf (exec (.rxByteTime 0x01) (lockedAt .time 47))).map
      (fun t => (t.link.outbound.map (fun p => p.bytes.getD 16 0), t.rx.rxState, t.inst.timeReceived)) =
    some ([3], .cmdStart, false) := by decide +kernel

/-- V12c at p = 21: an APID that is known, before the trailer, in a window that is no marker: CCSDS_FORMAT. -/
theorem test_rxbyte_cmd_start_third_idle_byte :
    (nextOf (exec (.rxByteCmdStart 0x00)
      (withReceiver { rxAt .cmdStart 20 with frameEnd := 35, idleCnt := 2, last := 0x13 }))).map
      (fun t => (t.link.outbound.map (fun p => p.bytes.getD 16 0), t.rx.rxState, t.rx.idleCnt)) =
    some ([3], .cmdStart, 0) := by decide +kernel

/-- V10 at p = 20 = E, at `met` 1: the residue is zero (the running CRC D000 and the byte D0, as in the last line of V4),
the command is echoed and the receiver resets. -/
theorem test_rxbyte_cmd_start_ends_the_frame :
    (nextOf (exec (.rxByteCmdStart 0xD0) { oneRecord with
      inst := { instrumentPowerOn with met := 1 }
      rx := { oneRecord.rx with pos := 19, frameEnd := 20, crc := 0xD000, idleCnt := 1 } })).map
      (fun t => (t.link.outbound.map Packet.bytes, t.rx)) =
    some ([[0xFE, 0xFA, 0x30, 0xC8, 0x00, 0x10, 0x0B, 0x01, 0xC0, 0x01, 0x00, 0x06, 0x00, 0x00, 0x00, 0x01, 0x00, 0xAB,
        0xCD, 0x00, 0x75, 0x3F]], rxCleared Config.default) := by decide +kernel

/-- V11a at c = 6: CL = 4 is even, so there is a pad byte and the command ends at c = 12. -/
theorem test_rxbyte_cmd_length :
    (rxOf (exec (.rxByteCmd 0x04) (withReceiver { inCommand 5 0 0 with last := 0x00 }))).map
      (fun rx => (rx.cmdC, rx.cmdLen, rx.cmdPad, rx.cmdEnd)) = some (6, 4, true, 12) := by decide +kernel

/-- V10 at p = 18: the argument CD is stored after the opcode AB and the command is complete. -/
theorem test_rxbyte_cmd_completes :
    (rxOf (exec (.rxByteCmd 0xCD) (withReceiver { inCommand 11 5 12 with scratch := [(0, 0xAB)], wp := 1 }))).map
      (fun rx => (rx.rxState, rx.scratch, rx.wp, rx.cmdK, rx.recs[0]?)) =
    some (.cmdStart, [(0, 0xAB), (1, 0xCD)], 2, 1, some ⟨0, 1⟩) := by decide +kernel

/-- V1: some entries of the table, over a table of other contents. -/
theorem test_buildtable :
    (nextOf (exec .buildTable (State.reset.withCrcTable ⟨Array.replicate 256 0, by simp⟩))).map
      (fun t => (tableRead t.crcTable 0x01, tableRead t.crcTable 0x44, tableRead t.crcTable 0x96)) =
    some (0x1021, 0x0840, 0xE37F) := by decide +kernel

/-- V4. -/
theorem test_crcupdate :
    (nextOf (exec (.crcUpdate 0x1234 0x56) State.reset)).map State.returned = some (.crc 0x3C40) ∧
      (nextOf (exec (.crcUpdate 0xFFFF 0x31) State.reset)).map State.returned = some (.crc 0xC782) := by decide +kernel

/-- V2: the CRC of the nine bytes "123456789". -/
theorem test_crc_span :
    crcSpan builtCrcTable 0xFFFF [0x31, 0x32, 0x33, 0x34, 0x35, 0x36, 0x37, 0x38, 0x39] = 0x29B1 := by decide +kernel

/-- V3. -/
theorem test_crcresiduecheck :
    (nextOf (exec (.crcResidueCheck 0x0000) State.reset)).map State.returned = some (.residue true) ∧
      (nextOf (exec (.crcResidueCheck 0x1021) State.reset)).map State.returned = some (.residue false) := by decide +kernel

/-- V22: `seq` wraps at 2^14. -/
theorem test_seqadvance_wraps :
    (instOf (exec .seqAdvance (State.reset.withInst { instrumentPowerOn with seq := 0x3FFF, hb := true }))).map
      (fun i => (i.seq, i.hb)) = some (0, true) := by decide +kernel

theorem test_seqreset :
    (instOf (exec .seqReset (State.reset.withInst { instrumentPowerOn with seq := 0x3FFF, pw := true }))).map
      (fun i => (i.seq, i.pw)) = some (0, true) := by decide +kernel

theorem test_hbtoggle :
    (instOf (exec .hbToggle (State.reset.withInst { instrumentPowerOn with pw := true }))).map
      (fun i => (i.hb, i.pw)) = some (true, true) := by decide +kernel

theorem test_pwrtoggle :
    (instOf (exec .pwrToggle (State.reset.withInst { instrumentPowerOn with hb := true, pw := true }))).map
      (fun i => (i.hb, i.pw)) = some (true, false) := by decide +kernel

/-- V23, its second and third lines. -/
theorem test_metadvance :
    (instOf (exec .metAdvance (State.reset.withInst
      { instrumentPowerOn with met := 7, pendingTime := 123456, timeReceived := true }))).map
        (fun i => (i.met, i.timeReceived, i.sic)) = some (123456, false, 1) ∧
    (instOf (exec .metAdvance (State.reset.withInst { instrumentPowerOn with met := 0xFFFFFFFF }))).map
      (fun i => (i.met, i.sic)) = some (0, 1) := by decide +kernel

/-- V24: the interval 2 with `sic` at 0 sends nothing. -/
theorem test_metadvance_not_due :
    (nextOf (exec .metAdvance (withConfig fun c => { c with statusInterval := 2 }))).map
      (fun t => (t.link.outbound, t.inst.sic)) = some ([], 1) := by decide +kernel

/-- Rule R220 with V10's packet: the opcode and the argument of the one record, at `met` 1. -/
theorem test_dispatch :
    packetsOf (exec .dispatch (oneRecord.withInst { instrumentPowerOn with met := 1 })) =
    some [[0xFE, 0xFA, 0x30, 0xC8, 0x00, 0x10, 0x0B, 0x01, 0xC0, 0x01, 0x00, 0x06, 0x00, 0x00, 0x00, 0x01, 0x00, 0xAB, 0xCD,
      0x00, 0x75, 0x3F]] := by decide +kernel

/-- V27: the head of a Status from reset and its size, with `seq` and `hb` afterwards. -/
theorem test_sendstatus :
    (nextOf (exec .sendStatus State.reset)).map (fun t =>
      (t.link.outbound.map (fun p => (p.bytes.take 16, p.bytes.length)), t.inst.seq, t.inst.hb)) =
    some ([([0xFE, 0xFA, 0x30, 0xC8, 0x00, 0x86, 0x0B, 0x05, 0xC0, 0x01, 0x00, 0x7C, 0x00, 0x00, 0x00, 0x00], 140)],
      1, true) := by decide +kernel

/-- V26: nine arguments and a pad byte. -/
theorem test_sendecho_pad :
    packetsOf (exec (.sendEcho 0x42 [1, 2, 3, 4, 5, 6, 7, 8, 9] 0) State.reset) =
    some [[0xFE, 0xFA, 0x30, 0xC8, 0x00, 0x18, 0x0B, 0x01, 0xC0, 0x01, 0x00, 0x0E, 0x00, 0x00, 0x00, 0x00, 0x00, 0x42, 0x01,
      0x02, 0x03, 0x04, 0x05, 0x06, 0x07, 0x08, 0x09, 0x00, 0x9E, 0x48]] := by decide +kernel

/-- V25: the alarm with `hb` 1, `pw` 1, `seq` 3FFF and `met` DEADBEEF. -/
theorem test_sendalarm :
    (nextOf (exec (.sendAlarm .ccsdsLength) (State.reset.withInst
      { instrumentPowerOn with hb := true, pw := true, seq := 0x3FFF, met := 0xDEADBEEF }))).map
        (fun t => (t.link.outbound.map Packet.bytes, t.inst.seq, t.inst.hb)) =
    some ([[0xFE, 0xFA, 0x30, 0xC8, 0xC0, 0x10, 0x0B, 0x02, 0xC0, 0x00, 0x00, 0x06, 0xDE, 0xAD, 0xBE, 0xEF, 0x05, 0x00,
      0x00, 0x00, 0x7F, 0xF0]], 0, true) := by decide +kernel

/-- Rules R66, R285: a transport that never drains holds the second send. -/
theorem test_sendalarm_held : faultOf (exec (.sendAlarm .itfLength) stalled) = some .heldInWaitDrained := by decide +kernel

/-- V5d: RXRESET clears the frame. -/
theorem test_rxreset : rxOf (exec .rxReset oneRecord) = some (rxCleared Config.default) := by decide +kernel

/-! ### Witnesses: for each statement with hypotheses, states and operands that meet them, clause by clause -/

/-- One operation word is named to the model. -/
def namedWord (w : Word) : State := State.reset.withProbe (some ⟨w, .nothing⟩)

/-- The state of a busy transport that drains one packet more. -/
def lastDrain : State := stalled.withLink { stalled.link with drains := some 1 }

/-- A command in progress at c = 10, in a state that meets the invariant. -/
def midCommand : State := withReceiver { rxAt .cmd 17 with cmdC := 10, cmdLen := 5, cmdEnd := 12 }

theorem oneRecord_phase : phaseInv oneRecord.cfg oneRecord.rx :=
  ⟨by decide +kernel, by decide +kernel, by decide +kernel, by decide +kernel, fun _ => by decide +kernel, by decide +kernel⟩

theorem oneRecord_inv (items : List PortItem) : State.Inv { oneRecord with inbound := items } := by
  have h : Config.Legal oneRecord.cfg ∧ oneRecord.link.outbuf.length = statusTotal ∧
      scratchInv oneRecord.cfg oneRecord.rx ∧ recordsInv oneRecord.cfg oneRecord.rx := by decide +kernel
  exact ⟨h.1, rfl, h.2.1, fun hn => absurd rfl hn, h.2.2.1, h.2.2.2, oneRecord_phase⟩

theorem midCommand_inv : midCommand.Inv :=
  ⟨by decide, rfl, by decide +kernel, fun hn => absurd rfl hn, by decide +kernel, by decide +kernel, by decide +kernel,
    by decide +kernel, by decide +kernel, by decide +kernel, by decide +kernel, fun _ => by decide +kernel⟩

theorem witness_DecodeOfEncodeGivesTheOperation : (Instr.sendEcho 0x42 tenArgs 0).WellFormed = true := by decide

theorem witness_DecodedOperationHasItsOwnEncoding :
    decode ⟨0xB000, .echo 0x42 tenArgs 0⟩ = .ok (.sendEcho 0x42 tenArgs 0) := by decide

/-- Words of every class, at the edges of its range. -/
theorem witness_ReservedWordsAreRefusedByName :
    (namedWord 0xF000).probe = some ⟨0xF000, .nothing⟩ ∧
    ∀ w ∈ [0xF000, 0xFFFF, 0x1600, 0x17FF, 0x0100, 0xC700, 0xC000, 0xC006, 0xC0FF, 0x0800, 0x1DFF, 0x0001, 0xE0FF],
      ReservedWord w := by decide

/-- The last bit, with V3's residue for it after the empty span (its CRC is FFFF). -/
theorem witness_SingleTrailerBitErrorIsDetected :
    0 < 16 ∧ 15 < 16 ∧ crcSpan builtCrcTable 0xFFFF [0x7F, 0xFF] = 0x1B98 := by decide +kernel

theorem witness_CrcUpdateReturnsTheFold : State.reset.crcTable = builtCrcTable := rfl

theorem witness_ResidueCheckPassesExactlyAtZero : (0x0001 : Word) ≠ 0 := by decide

/-- The three cases: not due, due with a transport that lets it out, due and held. -/
theorem witness_MetAdvanceResult :
    State.reset.cfg.statusInterval = 0 ∧
    (let s := withConfig fun c => { c with statusInterval := 1 };
      s.cfg.statusInterval ≠ 0 ∧ (timeCounted s).inst.sic = s.cfg.statusInterval ∧ s.CanSend) ∧
    (let s := { stalled with cfg := { Config.default with statusInterval := 1 } };
      s.cfg.statusInterval ≠ 0 ∧ (timeCounted s).inst.sic = s.cfg.statusInterval ∧ ¬ s.CanSend) := by decide

theorem witness_MetAdvanceResult_table : (withConfig fun c => { c with statusInterval := 1 }).crcTable = builtCrcTable := rfl

theorem witness_OneStatusPerInterval :
    State.Ready State.reset ∧ State.reset.cfg.statusInterval = 0 ∧
    State.Ready (withConfig fun c => { c with statusInterval := 2 }) ∧
    (withConfig fun c => { c with statusInterval := 2 }).cfg.statusInterval ≠ 0 ∧
    (withConfig fun c => { c with statusInterval := 2 }).inst.sic = 0 :=
  ⟨⟨rfl, rfl⟩, rfl, ⟨rfl, rfl⟩, by decide, rfl⟩

/-- Nothing in flight, and a packet in flight that the transport still drains. -/
theorem witness_SendAlarmResult :
    State.reset.crcTable = builtCrcTable ∧ State.reset.CanSend ∧ lastDrain.crcTable = builtCrcTable ∧ lastDrain.CanSend :=
  ⟨rfl, by decide, rfl, by decide⟩

theorem witness_SendStatusResult : lastDrain.crcTable = builtCrcTable ∧ lastDrain.CanSend := ⟨rfl, by decide⟩

theorem witness_SendEchoResult :
    lastDrain.crcTable = builtCrcTable ∧ lastDrain.CanSend ∧ tenArgs.length ≤ 10 ∧ ([] : List Byte).length ≤ 10 :=
  ⟨rfl, by decide, by decide, by decide⟩

theorem witness_EchoArgumentsOutOfRangeStop : 10 < ((0 : Byte) :: tenArgs).length := by decide

theorem witness_StalledTransportHoldsEverySend :
    stalled.link.inFlight = true ∧ stalled.link.drains = some 0 ∧ tenArgs.length ≤ 10 := by decide

/-- Each of the three kinds; an Echo of nine arguments carries a pad byte. -/
theorem witness_SentPacketsCarryZeroResidue :
    State.reset.crcTable = builtCrcTable ∧ State.reset.CanSend ∧
    (Instr.sendEcho 1 [1, 2, 3, 4, 5, 6, 7, 8, 9] 0 = .sendEcho 1 [1, 2, 3, 4, 5, 6, 7, 8, 9] 0 ∧
      [1, 2, 3, 4, 5, 6, 7, 8, (9 : Byte)].length ≤ 10 ∧ 30 = 20 + 9 + 9 % 2) :=
  ⟨rfl, by decide, rfl, by decide, rfl⟩

/-- One send of each kind, the Echo with the most arguments. -/
theorem witness_SequenceCountsTheSends :
    State.Ready State.reset ∧
    (∀ i ∈ [Instr.sendStatus, .sendEcho 0x42 tenArgs 0, .sendAlarm .itfLength],
      (sentKind i).isSome = true ∧ i.WellFormed = true) ∧
    (List.replicate 16384 (Instr.sendAlarm .itfLength)).length = 16384 :=
  ⟨⟨rfl, rfl⟩, by decide, List.length_replicate⟩

theorem witness_EveryPacketIsCounted :
    Instr.dispatch ≠ .reset ∧ Instr.dispatch ≠ .seqAdvance ∧ Instr.dispatch ≠ .seqReset ∧ Instr.dispatch ≠ .hbToggle ∧
    ∃ t, exec .dispatch oneRecord = .next t :=
  ⟨by decide, by decide, by decide, by decide, exists_next _ (by decide +kernel)⟩

/-- A record of one argument, and one of ten that ends at the last byte of the scratch buffer. -/
theorem witness_DispatchResult :
    State.Ready oneRecord ∧ oneRecord.rx.cmdK ≤ oneRecord.rx.recs.length ∧
    (∀ r ∈ oneRecord.rx.recs.take oneRecord.rx.cmdK,
      r.off.toNat + r.cnt.toNat + 1 ≤ oneRecord.cfg.scratchSize ∧ r.cnt.toNat ≤ 10) ∧
    (∀ r ∈ [CmdRecord.mk 99 10], r.off.toNat + r.cnt.toNat + 1 ≤ 110 ∧ r.cnt.toNat ≤ 10) :=
  ⟨⟨rfl, rfl⟩, by decide, by decide, by decide⟩

theorem witness_DispatchSendsOneEchoPerRecord : ∃ t, exec .dispatch oneRecord = .next t :=
  exists_next _ (by decide +kernel)

theorem witness_OutOfBoundsRecordFaults :
    [CmdRecord.mk 110 0] = CmdRecord.mk 110 0 :: [] ∧
    (let s := withReceiver { rxAt .cmdStart 18 with recs := [⟨110, 0⟩], cmdK := 1 };
      s.rx.recs = [⟨110, 0⟩] ∧ 0 < s.rx.cmdK ∧ s.cfg.scratchSize ≤ 110) := by decide

theorem witness_IdleByteWithoutSync :
    (withReceiver { rxCleared Config.default with syncWin := 0xFEFA30C8 }).rx.rxState = .idle ∧
    (0xFEFA30C8 * 256 + 0xC8) % 4294967296 ≠ 0xFEFA30C8 := by decide

/-- The interval 0 with a held transport, and a nonzero interval with a transport that drains. -/
theorem witness_IdleByteFindsSync :
    (let s := stalled.withRx { rxCleared Config.default with syncWin := 0xAAFEFA30 };
      s.rx.rxState = .idle ∧ s.cfg.statusInterval = 0 ∧ (s.rx.syncWin.toNat * 256 + 0xC8) % 4294967296 = 0xFEFA30C8) ∧
    (let s := withConfig fun c => { c with statusInterval := 1 };
      s.rx.rxState = .idle ∧ s.CanSend) := by decide

theorem witness_IdleByteFindsSync_table :
    (stalled.withRx { rxCleared Config.default with syncWin := 0xAAFEFA30 }).crcTable = builtCrcTable := rfl

theorem witness_LengthByteOnlyCounted :
    (lockedAt .length 4).rx.rxState = .length ∧ (lockedAt .length 4).crcTable = builtCrcTable ∧
    midFrame (lockedAt .length 4) ∧ (lockedAt .length 4).rx.pos ≠ 5 := ⟨rfl, rfl, by decide, by decide⟩

/-- L at both ends of the accepted range: 14 = 000E and 264 = 0108. -/
theorem witness_LengthFieldAccepted :
    (lockedAt .length 5).rx.rxState = .length ∧ (lockedAt .length 5).crcTable = builtCrcTable ∧
    (lockedAt .length 5).cfg.Legal ∧ 6 ≤ (lockedAt .length 5).cfg.maxPacketSize ∧ (lockedAt .length 5).rx.pos = 5 ∧
    (∀ lf ∈ [windowNat { rxAt .length 5 with last := 0x00 } 0x0E, windowNat { rxAt .length 5 with last := 0x01 } 0x08],
      lf < 8192 ∧ Config.default.itfLenMin ≤ lf ∧ lf ≤ Config.default.itfLenMax) :=
  ⟨rfl, rfl, by decide, by decide, rfl, by decide⟩

/-- The least field with a format bit (2000), and L one below and one above the accepted range. -/
theorem witness_LengthFieldRejected :
    (lockedAt .length 5).rx.rxState = .length ∧ (lockedAt .length 5).crcTable = builtCrcTable ∧
    (lockedAt .length 5).CanSend ∧ 6 ≤ (lockedAt .length 5).cfg.maxPacketSize ∧ (lockedAt .length 5).rx.pos = 5 ∧
    8192 ≤ windowNat { rxAt .length 5 with last := 0x20 } 0x00 ∧
    windowNat { rxAt .length 5 with last := 0x00 } 0x0D < Config.default.itfLenMin ∧
    Config.default.itfLenMax < windowNat { rxAt .length 5 with last := 0x01 } 0x09 ∧
    windowNat { rxAt .length 5 with last := 0x01 } 0x09 < 8192 :=
  ⟨rfl, rfl, by decide, by decide, rfl, by decide, by decide, by decide, by decide⟩

/-- Every sync-locked state at the last position the guard lets pass. -/
theorem witness_OverflowGuardAborts :
    (lockedAt .cmd 270).crcTable = builtCrcTable ∧
    ∀ st ∈ [RxState.length, .timeStart, .time, .cmdStart, .cmd], (lockedAt st 270).rx.rxState ≠ .idle ∧
      (lockedAt st 270).CanSend ∧ (lockedAt st 270).cfg.maxPacketSize < (lockedAt st 270).rx.pos + 1 :=
  ⟨rfl, by decide⟩

theorem witness_FirstHeaderWordCaptured :
    (lockedAt .timeStart 7).crcTable = builtCrcTable ∧
    ∀ pos ∈ [6, 7, 8], (lockedAt .timeStart pos).rx.rxState = .timeStart ∧ midFrame (lockedAt .timeStart pos) :=
  ⟨rfl, by decide⟩

/-- The timestamp marker, the command marker, a word with a known APID and one with an unknown APID. -/
theorem witness_FirstHeaderWordDecides :
    (lockedAt .timeStart 9).crcTable = builtCrcTable ∧ (lockedAt .timeStart 9).rx.rxState = .timeStart ∧
    midFrame (lockedAt .timeStart 9) ∧ (lockedAt .timeStart 9).CanSend ∧
    (lockedAt .timeStart 9).rx.cmdK < Config.default.maxCmds ∧
    (0x1B10 : Word) = Config.default.timeMarker ∧ (0x1B00 : Word) = Config.default.cmdMarker ∧
    (0x1B00 : Word) ≠ Config.default.timeMarker ∧ apidKnown Config.default 0x1310 ∧ ¬ apidKnown Config.default 0x0B05 :=
  ⟨rfl, rfl, by decide, by decide, by decide, rfl, rfl, by decide, by decide, by decide⟩

/-- Each position; at p = 14 the declared length 35 and its neighbour 34. -/
theorem witness_TimestampLengthChecked :
    (lockedAt .time 10).crcTable = builtCrcTable ∧
    (∀ pos ∈ [10, 11, 12, 13], (lockedAt .time pos).rx.rxState = .time ∧ midFrame (lockedAt .time pos) ∧
      (lockedAt .time pos).CanSend) ∧
    (35 : Word) = Config.default.timeLenExpected ∧ (34 : Word) ≠ Config.default.timeLenExpected :=
  ⟨rfl, by decide, rfl, by decide⟩

theorem witness_TimestampCaptured :
    (lockedAt .time 14).crcTable = builtCrcTable ∧
    ∀ pos ∈ [14, 16, 17], (lockedAt .time pos).rx.rxState = .time ∧ midFrame (lockedAt .time pos) :=
  ⟨rfl, by decide⟩

/-- Each position; at p = 48 with nothing wrong, with a bad last byte, and with a bad byte before it. -/
theorem witness_ReservedSpanChecked :
    (lockedAt .time 18).crcTable = builtCrcTable ∧
    (∀ pos ∈ [18, 46, 47], (lockedAt .time pos).rx.rxState = .time ∧ midFrame (lockedAt .time pos) ∧
      (lockedAt .time pos).CanSend) ∧
    ¬ ((lockedAt .time 47).rx.fmtErr = true ∨ (0x00 : Byte) ≠ 0) ∧
    ((lockedAt .time 47).rx.fmtErr = true ∨ (0x01 : Byte) ≠ 0) ∧
    ({ rxAt .time 47 with fmtErr := true }.fmtErr = true ∨ (0x00 : Byte) ≠ 0) :=
  ⟨rfl, by decide, by decide, by decide, by decide⟩

/-- A header on idle byte 2 and on idle byte 3; no header on idle bytes 1, 2 and 3. -/
theorem witness_CommandHeaderSearched :
    (lockedAt .cmdStart 20).crcTable = builtCrcTable ∧ (lockedAt .cmdStart 20).rx.rxState = .cmdStart ∧
    midFrame (lockedAt .cmdStart 20) ∧ (lockedAt .cmdStart 20).CanSend ∧
    (∀ n ∈ [1, 2], ({ rxAt .cmdStart 20 with idleCnt := BitVec.ofNat 8 n, last := 0x1B }.idleCnt.toNat + 1 ≤ 3 ∧
      2 ≤ { rxAt .cmdStart 20 with idleCnt := BitVec.ofNat 8 n, last := 0x1B }.idleCnt.toNat + 1 ∧
      windowNat { rxAt .cmdStart 20 with idleCnt := BitVec.ofNat 8 n, last := 0x1B } 0x00 = Config.default.cmdMarker.toNat)) ∧
    (∀ n ∈ [0, 1, 2], { rxAt .cmdStart 20 with idleCnt := BitVec.ofNat 8 n }.idleCnt.toNat + 1 ≤ 3 ∧
      windowNat { rxAt .cmdStart 20 with idleCnt := BitVec.ofNat 8 n } 0x55 ≠ Config.default.cmdMarker.toNat) :=
  ⟨rfl, rfl, by decide, by decide, by decide, by decide⟩

/-- Ten commands are complete; the eleventh header comes in CMD_START, on idle byte 2 or 3, or at p = 10. -/
theorem witness_CommandCountLimitAborts :
    (lockedAt .cmdStart 20).crcTable = builtCrcTable ∧ (lockedAt .cmdStart 20).CanSend ∧
    (∀ n ∈ [1, 2],
      let s := withReceiver { rxAt .cmdStart 20 with idleCnt := BitVec.ofNat 8 n, last := 0x1B, cmdK := 10 };
      s.rx.pos + 1 ≤ s.cfg.maxPacketSize ∧ s.cfg.maxCmds ≤ s.rx.cmdK ∧ s.rx.rxState = .cmdStart ∧
        1 ≤ s.rx.idleCnt.toNat ∧ s.rx.idleCnt.toNat ≤ 2 ∧ windowNat s.rx 0x00 = s.cfg.cmdMarker.toNat) ∧
    (let s := withReceiver { rxAt .timeStart 9 with subHdr := 0x1B00, cmdK := 10 };
      s.rx.pos + 1 ≤ s.cfg.maxPacketSize ∧ s.cfg.maxCmds ≤ s.rx.cmdK ∧ s.rx.rxState = .timeStart ∧ s.rx.pos = 9 ∧
        s.rx.subHdr ≠ s.cfg.timeMarker ∧ s.rx.subHdr = s.cfg.cmdMarker) :=
  ⟨rfl, by decide, by decide, by decide⟩

/-- The ends of both ranges of c. -/
theorem witness_CommandHeaderBytesIgnored :
    (withReceiver (inCommand 2 0 0)).crcTable = builtCrcTable ∧
    ∀ c ∈ [2, 4, 6, 9],
      (withReceiver (inCommand (BitVec.ofNat 16 c) 5 12)).rx.rxState = .cmd ∧
        midFrame (withReceiver (inCommand (BitVec.ofNat 16 c) 5 12)) ∧
        (3 ≤ c + 1 ∧ c + 1 ≤ 5 ∨ 7 ≤ c + 1 ∧ c + 1 ≤ 10) :=
  ⟨rfl, by decide⟩

/-- CL at both ends of the accepted range, 4 and 14. -/
theorem witness_CommandLengthAccepted :
    (withReceiver (inCommand 5 0 0)).crcTable = builtCrcTable ∧ (withReceiver (inCommand 5 0 0)).rx.rxState = .cmd ∧
    midFrame (withReceiver (inCommand 5 0 0)) ∧ (withReceiver (inCommand 5 0 0)).rx.cmdC = 5 ∧
    (∀ b ∈ [4, 14], Config.default.minCmd ≤ windowNat (inCommand 5 0 0) (BitVec.ofNat 8 b) ∧
      windowNat (inCommand 5 0 0) (BitVec.ofNat 8 b) ≤ Config.default.maxCmd) :=
  ⟨rfl, rfl, by decide, rfl, by decide⟩

/-- CL one below and one above the range; the first record slot and the last, the predecessor's count kept or cleared. -/
theorem witness_CommandLengthRejectedExcises :
    (withReceiver (inCommand 5 0 0)).crcTable = builtCrcTable ∧ (withReceiver (inCommand 5 0 0)).rx.rxState = .cmd ∧
    midFrame (withReceiver (inCommand 5 0 0)) ∧ (withReceiver (inCommand 5 0 0)).CanSend ∧
    (∀ k ∈ [0, 9], { inCommand 5 0 0 with cmdK := k }.cmdK < (inCommand 5 0 0).recs.length) ∧
    windowNat (inCommand 5 0 0) 0x03 < Config.default.minCmd ∧ Config.default.maxCmd < windowNat (inCommand 5 0 0) 0x0F ∧
    Config.default.exciseClearsPredCount = true :=
  ⟨rfl, rfl, by decide, by decide, by decide, by decide, by decide, rfl⟩

/-- The first body byte, at the first and at the last index of the scratch buffer. -/
theorem witness_CommandBodyByteStored :
    (withReceiver (inCommand 10 5 12)).crcTable = builtCrcTable ∧
    ∀ wp ∈ [0, 109],
      let s := withReceiver { inCommand 10 5 12 with wp := wp };
      s.rx.rxState = .cmd ∧ midFrame s ∧ Memory.wf s.rx.scratch = true ∧ s.rx.wp < s.cfg.scratchSize ∧
        11 ≤ s.rx.cmdC.toNat + 1 ∧ s.rx.cmdC.toNat + 1 < 65536 ∧ s.rx.cmdC.toNat + 1 ≤ s.rx.cmdLen.toNat + 7 ∧
        s.rx.cmdC.toNat + 1 ≠ s.rx.cmdEnd.toNat :=
  ⟨rfl, by decide⟩

theorem witness_ScratchOverflowAborts :
    (withReceiver (inCommand 10 5 12)).crcTable = builtCrcTable ∧
    (let s := withReceiver { inCommand 10 5 12 with wp := 110 };
      s.rx.rxState = .cmd ∧ s.CanSend ∧ s.rx.pos + 1 ≤ s.cfg.maxPacketSize ∧ s.cfg.scratchSize ≤ s.rx.wp ∧
        11 ≤ s.rx.cmdC.toNat + 1 ∧ s.rx.cmdC.toNat + 1 < 65536 ∧ s.rx.cmdC.toNat + 1 ≤ s.rx.cmdLen.toNat + 7) :=
  ⟨rfl, by decide⟩

/-- A command of two body bytes ends on its argument (CL = 5); one of one body byte ends on its pad byte (CL = 4), here with
the scratch buffer full. -/
theorem witness_CommandCompletes :
    (withReceiver (inCommand 11 5 12)).crcTable = builtCrcTable ∧
    (let s := withReceiver { inCommand 11 5 12 with wp := 109 };
      s.rx.rxState = .cmd ∧ midFrame s ∧ Memory.wf s.rx.scratch = true ∧ s.rx.cmdK < s.rx.recs.length ∧
        4 ≤ s.rx.cmdLen.toNat ∧ s.rx.cmdC.toNat + 1 ≤ s.rx.cmdLen.toNat + 7 ∧ s.rx.wp < s.cfg.scratchSize ∧
        11 ≤ s.rx.cmdC.toNat + 1 ∧ s.rx.cmdC.toNat + 1 < 65536 ∧ s.rx.cmdC.toNat + 1 = s.rx.cmdEnd.toNat) ∧
    (let s := withReceiver { inCommand 11 4 12 with wp := 110 };
      s.rx.rxState = .cmd ∧ midFrame s ∧ Memory.wf s.rx.scratch = true ∧ s.rx.cmdK < s.rx.recs.length ∧
        4 ≤ s.rx.cmdLen.toNat ∧ ¬ s.rx.cmdC.toNat + 1 ≤ s.rx.cmdLen.toNat + 7 ∧
        11 ≤ s.rx.cmdC.toNat + 1 ∧ s.rx.cmdC.toNat + 1 < 65536 ∧ s.rx.cmdC.toNat + 1 = s.rx.cmdEnd.toNat) :=
  ⟨rfl, by decide, by decide⟩

/-- The state before the last byte of a frame with one command, `len_ok` as given. -/
def lastByte (lenOk : Bool) : State :=
  { oneRecord with rx := { oneRecord.rx with pos := 19, lenOk := lenOk, frameEnd := 20, crc := 0xD000, idleCnt := 1 } }

/-- The last byte of a frame with one command: a zero residue (V10) and a nonzero one. -/
theorem witness_EndOfFrameFollowsTheStateRule :
    State.Ready (lastByte true) ∧ (lastByte true).rx.rxState ≠ .idle ∧ (lastByte true).rx.rxState ≠ .length ∧
    (lastByte true).rx.lenOk = true ∧ (lastByte true).rx.pos + 1 = (lastByte true).rx.frameEnd.toNat ∧
    (lastByte true).rx.pos + 1 ≤ (lastByte true).cfg.maxPacketSize ∧
    refCrcByte (lastByte true).rx.crc 0xD0 = 0 ∧ refCrcByte (lastByte true).rx.crc 0xD1 ≠ 0 :=
  ⟨⟨rfl, rfl⟩, by decide, by decide, rfl, by decide, by decide, by decide +kernel, by decide +kernel⟩

/-- The state rule of that byte goes on, in CMD_START. -/
theorem witness_EndOfFrameFollowsTheStateRule_goesOn :
    (rxOf (exec (.rxByteCmdStart 0xD0) (lastByte false))).map Receiver.rxState = some .cmdStart := by decide +kernel

/-- A state rule that resets the receiver on the last byte: the scratch buffer is full. -/
theorem witness_EndOfFrameFollowsTheStateRule_aborts :
    rxOf (exec (.rxByteCmd 0x11) (withReceiver { inCommand 10 5 12 with wp := 110, pos := 59, lenOk := false })) =
      some (rxCleared Config.default) := by decide +kernel

/-- Both items of the port, and an internal operation named to the model. -/
theorem witness_StepRunsTheDecodedOperation :
    (let s := { oneRecord with inbound := [.byte 0x1B, .reset] };
      s.probe = none ∧ s.inbound = .byte 0x1B :: [.reset] ∧
      decode (portOperation s.rx.rxState (.byte 0x1B)) = .ok (.rxByteCmdStart 0x1B) ∧
      decode (portOperation s.rx.rxState .reset) = .ok .reset) ∧
    (namedWord 0x9000).probe = some ⟨0x9000, .nothing⟩ ∧ decode ⟨0x9000, .nothing⟩ = .ok .dispatch := by decide

theorem witness_StepConsumesAnInboundByte :
    oneRecord.probe = none ∧ ({ oneRecord with inbound := [.byte 0x1B] } : State).inbound = .byte 0x1B :: [] ∧
    ({ oneRecord with inbound := [.reset] } : State).inbound = .reset :: [] ∧ oneRecord.inbound = [] := by decide

/-- One step that leaves a Reset at the port. -/
theorem witness_OnlyBytesAndResetReachTheBlock :
    State.probe { oneRecord with inbound := [.byte 0x1B, .reset] } = none ∧
    ∃ t, Host.Core.run Sys2Proof.core 1 { oneRecord with inbound := [.byte 0x1B, .reset] } = .next t :=
  ⟨rfl, exists_next _ (by decide +kernel)⟩

theorem witness_InvariantHoldsAtReset : Config.default.Legal := by decide

theorem witness_EveryStepKeepsTheInvariant :
    State.Inv { oneRecord with inbound := [.byte 0x1B] } ∧ ∃ t, step { oneRecord with inbound := [.byte 0x1B] } = .next t :=
  ⟨oneRecord_inv _, exists_next _ (by decide +kernel)⟩

theorem witness_EveryOperationCompletesSafely :
    oneRecord.Inv ∧ oneRecord.link.drains = none ∧ (Instr.rxByteCmdStart 0x1B).WellFormed = true ∧
    ∀ st b, Instr.rxByteCmdStart 0x1B = rxByteInstr st b → oneRecord.rx.rxState = st := by
  refine ⟨oneRecord_inv [], rfl, by decide, ?_⟩
  intro st b h
  cases st <;> first | rfl | simp [rxByteInstr] at h

theorem witness_AnyInboundStreamIsConsumed :
    State.Inv { oneRecord with inbound := [0x1B, 0x00].map PortItem.byte } ∧ oneRecord.link.drains = none ∧
    oneRecord.probe = none :=
  ⟨oneRecord_inv _, rfl, rfl⟩

/-- The states of the receiver. -/
def allRxStates : List RxState := [.idle, .length, .timeStart, .time, .cmdStart, .cmd]

/-- An inbound byte in every state of the receiver. -/
theorem rxByte_completes_in_every_state :
    ∀ st ∈ allRxStates, ∃ t, exec (rxByteInstr (lockedAt st 20).rx.rxState 0x55) (lockedAt st 20) = .next t := by
  have h : ∀ st ∈ allRxStates,
      (nextOf (exec (rxByteInstr (lockedAt st 20).rx.rxState 0x55) (lockedAt st 20))).isSome = true := by decide +kernel
  exact fun st hst => exists_next _ (h st hst)

theorem witness_PacketsOfOneByteInOrder :
    ∃ t, exec (rxByteInstr (lockedAt .cmdStart 20).rx.rxState 0x55) (lockedAt .cmdStart 20) = .next t :=
  rxByte_completes_in_every_state .cmdStart (by decide)

theorem witness_ReceiverStateGraph :
    ∃ t, exec (rxByteInstr (lockedAt .timeStart 20).rx.rxState 0x55) (lockedAt .timeStart 20) = .next t :=
  rxByte_completes_in_every_state .timeStart (by decide)

theorem witness_TimeMovesOnlyAtASync :
    (∃ t, exec (rxByteInstr (lockedAt .cmd 20).rx.rxState 0x55) (lockedAt .cmd 20) = .next t) ∧
    (rxOf (exec (.rxByteIdle 0x55) (lockedAt .idle 20))).map Receiver.rxState = some .idle :=
  ⟨rxByte_completes_in_every_state .cmd (by decide), by decide +kernel⟩

theorem witness_PowerBitStaysClear :
    oneRecord.probe = none ∧ oneRecord.inst.pw = false ∧ oneRecord.link.outbound = [] ∧
    ∃ t, step { oneRecord with inbound := [.byte 0x1B] } = .next t :=
  ⟨rfl, rfl, rfl, exists_next _ (by decide +kernel)⟩

theorem witness_ParametersAndTableAreFixed :
    oneRecord.crcTable = builtCrcTable ∧ ∃ t, step { oneRecord with inbound := [.byte 0x1B] } = .next t :=
  ⟨rfl, exists_next _ (by decide +kernel)⟩

theorem witness_OverflowsUnreachableUnderDefaults :
    midCommand.Inv ∧ 6 + midCommand.cfg.itfLenMax ≤ midCommand.cfg.maxPacketSize ∧
    11 * midCommand.cfg.maxCmds ≤ midCommand.cfg.scratchSize ∧ midCommand.rx.rxState = .cmd ∧
    10 ≤ midCommand.rx.cmdC.toNat ∧ midCommand.rx.cmdC.toNat + 1 ≤ midCommand.rx.cmdLen.toNat + 7 :=
  ⟨midCommand_inv, by decide, by decide, rfl, by decide, by decide⟩

end Sys2Proof.Tests
end

section
/-! The reserved operation words (rule R97): each is refused by the decoder, and no operation is encoded as one. -/

namespace Sys2Proof.Proofs.Encoding

open Sys2Proof.Machine Sys2Proof.Laws

/-! ### The fields of an operation word (rule R96) -/

theorem selectorField_toNat (w : Word) : (selectorField w).toNat = w.toNat / 4096 := by
  simp only [selectorField, BitVec.extractLsb'_toNat, Nat.shiftRight_eq_div_pow]
  omega

theorem stateField_toNat (w : Word) : (stateField w).toNat = w.toNat / 256 % 8 := by
  simp [stateField, Nat.shiftRight_eq_div_pow]

theorem dataField_toNat (w : Word) : (dataField w).toNat = w.toNat % 256 := by
  simp [dataField]

theorem bit11_eq (w : Word) : bit11 w = decide (w.toNat / 2048 % 2 = 1) := by
  simp [bit11, BitVec.getLsbD, Nat.testBit_eq_decide_div_mod_eq]

theorem operationWord_state (sel : BitVec 4) (st : BitVec 3) (d : Byte) :
    stateField (operationWord sel st d) = st := by
  unfold stateField operationWord
  ext i hi
  interval_cases i <;> simp

theorem operationWord_data (sel : BitVec 4) (st : BitVec 3) (d : Byte) :
    dataField (operationWord sel st d) = d := by
  unfold dataField operationWord
  ext i hi
  interval_cases i <;> simp

/-- The six reserved classes, read off the fields of the word instead of its number. -/
theorem reservedWord_iff_fields (w : Word) :
    ReservedWord w.toNat ↔
      selectorField w = 0xF ∨
      (selectorField w = 0x1 ∧ 6 ≤ (stateField w).toNat) ∨
      (selectorField w ≠ 0x1 ∧ stateField w ≠ 0) ∨
      (selectorField w = 0xC ∧ (dataField w = 0 ∨ 6 ≤ (dataField w).toNat)) ∨
      bit11 w = true ∨
      (selectorField w ≠ 0x1 ∧ selectorField w ≠ 0xC ∧ dataField w ≠ 0) := by
  simp [ReservedWord, BitVec.toNat_eq, selectorField_toNat, stateField_toNat, dataField_toNat, bit11_eq]

/-! ### The decoder, selector by selector -/

theorem decode_of_bit11 {o : Operation} (h : bit11 o.word = true) : decode o = .error .bit11Set := by
  simp [decode, h]

theorem decode_of_selector_F {o : Operation} (hb : bit11 o.word = false) (h : selectorField o.word = 0xF) :
    decode o = .error .reservedSelector := by
  simp [decode, hb, h]

theorem decode_of_selector_1 {o : Operation} (hb : bit11 o.word = false) (h : selectorField o.word = 0x1) :
    decode o = decodeRxByte o := by
  simp [decode, hb, h]

theorem decode_of_selector_C {o : Operation} (hb : bit11 o.word = false) (h : selectorField o.word = 0xC) :
    decode o = decodeSendAlarm o := by
  simp [decode, hb, h]

/-- Every selector but those of RxByte, SendAlarm and the reserved one asks for zeros in the state field and the data bits,
before it looks at the operands beside the word. -/
theorem decode_eq_zeroFields {o : Operation} (hb : bit11 o.word = false) (h1 : selectorField o.word ≠ 0x1)
    (hC : selectorField o.word ≠ 0xC) (hF : selectorField o.word ≠ 0xF) :
    ∃ k, decode o = zeroFields o.word k := by
  have hF' : (selectorField o.word).toNat ≠ 15 := fun h => hF (BitVec.eq_of_toNat_eq h)
  unfold decode
  rw [if_neg (by simp [hb])]
  split
  case h_2 h => exact absurd (BitVec.eq_of_toNat_eq h) h1
  case h_13 h => exact absurd (BitVec.eq_of_toNat_eq h) hC
  case h_16 =>
    simp only [imp_false] at *
    omega
  all_goals exact ⟨_, rfl⟩

/-! ### What each part of the decoder refuses (rule R97) -/

theorem rxStateOfCode_eq_none {c : BitVec 3} (h : 6 ≤ c.toNat) : rxStateOfCode c = none := by
  unfold rxStateOfCode
  split
  case h_7 => rfl
  all_goals omega

theorem alarmOfCode_eq_none {c : Byte} (h : c = 0 ∨ 6 ≤ c.toNat) : alarmOfCode c = none := by
  have hr : c.toNat = 0 ∨ 6 ≤ c.toNat := h.imp_left (by rintro rfl; rfl)
  unfold alarmOfCode
  split
  case h_6 => rfl
  all_goals omega

theorem zeroFields_refuses {w : Word} (h : stateField w ≠ 0 ∨ dataField w ≠ 0) (k : Except DecodeError Instr) :
    ∃ why, zeroFields w k = .error why := by
  unfold zeroFields
  by_cases hs : stateField w = 0
  · have hd : dataField w ≠ 0 := h.resolve_left (absurd hs)
    exact ⟨_, by rw [if_neg (not_not.mpr hs), if_pos hd]⟩
  · exact ⟨_, if_pos hs⟩

theorem decodeRxByte_refuses {o : Operation} (h : 6 ≤ (stateField o.word).toNat) :
    decodeRxByte o = .error .reservedRxState := by
  simp [decodeRxByte, rxStateOfCode_eq_none h]

theorem decodeSendAlarm_refuses {o : Operation}
    (h : stateField o.word ≠ 0 ∨ dataField o.word = 0 ∨ 6 ≤ (dataField o.word).toNat) :
    ∃ why, decodeSendAlarm o = .error why := by
  unfold decodeSendAlarm
  by_cases hs : stateField o.word = 0
  · have hd := h.resolve_left (absurd hs)
    exact ⟨_, by rw [if_neg (not_not.mpr hs), alarmOfCode_eq_none hd]⟩
  · exact ⟨_, if_pos hs⟩

/-- Along the decoder's own order: bit 11, then the selector, then the fields the selector looks at. -/
theorem decode_refuses_reserved {o : Operation} (h : ReservedWord o.word.toNat) : ∃ why, decode o = .error why := by
  rw [reservedWord_iff_fields] at h
  cases hb : bit11 o.word with
  | true => exact ⟨_, decode_of_bit11 hb⟩
  | false =>
    by_cases hF : selectorField o.word = 0xF
    · exact ⟨_, decode_of_selector_F hb hF⟩
    by_cases h1 : selectorField o.word = 0x1
    · have hs : 6 ≤ (stateField o.word).toNat := by simpa [hb, h1] using h
      exact ⟨_, (decode_of_selector_1 hb h1).trans (decodeRxByte_refuses hs)⟩
    by_cases hC : selectorField o.word = 0xC
    · rw [decode_of_selector_C hb hC]
      exact decodeSendAlarm_refuses (by simpa [hb, hC] using h)
    · obtain ⟨k, hk⟩ := decode_eq_zeroFields hb h1 hC hF
      have hs : stateField o.word ≠ 0 ∨ dataField o.word ≠ 0 := by
        rw [hb] at h
        tauto
      exact hk ▸ zeroFields_refuses hs k

/-- A word named to the model that the decoder refuses makes the step a refusal with the decoder's reason. -/
theorem step_of_decode_error {s : State} {o : Operation} {why : DecodeError} (hp : s.probe = some o)
    (hd : decode o = .error why) : step s = .refused (.reservedWord why) := by
  simp [step, runOperation, hp, hd]

/-! ### The encoder keeps clear of the reserved classes -/

theorem rxStateCode_lt_six (st : RxState) : st.code.toNat < 6 := by
  cases st <;> decide

theorem alarmCode_range (code : AlarmCode) : code.code ≠ 0 ∧ code.code.toNat < 6 := by
  cases code <;> decide

theorem rxByteWord_not_reserved (st : RxState) (b : Byte) : ¬ ReservedWord (rxByteWord st b).toNat := by
  have hst := rxStateCode_lt_six st
  rw [reservedWord_iff_fields, rxByteWord, operationWord_selector, operationWord_state, operationWord_bit11]
  simpa using hst

theorem alarmWord_not_reserved (code : AlarmCode) : ¬ ReservedWord (operationWord 0xC 0 code.code).toNat := by
  obtain ⟨hne, hlt⟩ := alarmCode_range code
  rw [reservedWord_iff_fields, operationWord_selector, operationWord_state, operationWord_data, operationWord_bit11]
  simpa using ⟨hne, hlt⟩

theorem plainWord_not_reserved {sel : BitVec 4} (hC : sel ≠ 0xC) (hF : sel ≠ 0xF) :
    ¬ ReservedWord (operationWord sel 0 0).toNat := by
  rw [reservedWord_iff_fields, operationWord_selector, operationWord_state, operationWord_data, operationWord_bit11]
  simpa using ⟨hF, hC⟩

theorem encode_not_reserved (i : Instr) : ¬ ReservedWord (encode i).word.toNat := by
  cases i with
  | rxByteIdle b | rxByteLength b | rxByteTimeStart b | rxByteTime b | rxByteCmdStart b | rxByteCmd b =>
    exact rxByteWord_not_reserved _ b
  | sendAlarm code => exact alarmWord_not_reserved code
  | reset | buildTable | crcUpdate | seqAdvance | seqReset | hbToggle | pwrToggle | metAdvance | dispatch | sendStatus
  | sendEcho | rxReset | crcResidueCheck => exact plainWord_not_reserved (by decide) (by decide)

/-- Settles O3: the decoder refuses every reserved word, so the step does, and every encoded word has its fields in range. -/
theorem reservedWordsAreRefusedByName : Obligations.ReservedWordsAreRefusedByName := by
  refine ⟨fun s o hp hr => ?_, encode_not_reserved⟩
  obtain ⟨why, hd⟩ := decode_refuses_reserved hr
  exact ⟨why, step_of_decode_error hp hd⟩

end Sys2Proof.Proofs.Encoding
end

section
/-! The CRC engine (40_crc_engine.md). One fact carries it: folding a byte into the checksum is 8 bit steps of the checksum
with the byte XORed into its top half. So a two-byte trailer is 16 bit steps of the checksum XOR the trailer, where a bit step is
XOR-linear and takes no word but zero to zero. -/

namespace Sys2Proof.Proofs.Crc

open Sys2Proof.Machine

/-! ### The bit steps (rule R120) -/

/-- What the bit leaving at the top adds to the shifted remainder. -/
def polyIf (x : Bool) : Word := if x then 0x1021 else 0

theorem polyIf_xor (x y : Bool) : polyIf (x ^^ y) = polyIf x ^^^ polyIf y := by
  cases x <;> cases y <;> decide

theorem crcShift_eq (a : Word) : crcShift a = a <<< 1 ^^^ polyIf (a.getLsbD 15) := by
  unfold crcShift
  cases a.getLsbD 15 <;> simp [polyIf, crcPoly]

theorem refCrcBit_eq (c : Word) (x : Bool) : refCrcBit c x = crcShift c ^^^ polyIf x := by
  rw [crcShift_eq, BitVec.xor_assoc, ← polyIf_xor]
  unfold refCrcBit
  cases c.getLsbD 15 <;> cases x <;> simp [polyIf]

theorem crcShift_xor (a b : Word) : crcShift (a ^^^ b) = crcShift a ^^^ crcShift b := by
  simp only [crcShift_eq, BitVec.shiftLeft_xor_distrib, BitVec.getLsbD_xor, polyIf_xor]
  ac_rfl

/-- The polynomial is odd, so a step that drops a set bit leaves bit 0 set; any other step is a shift that loses nothing. -/
theorem crcShift_ne_zero {a : Word} (ha : a ≠ 0) : crcShift a ≠ 0 := by
  intro hz
  rw [crcShift_eq] at hz
  cases hbit : a.getLsbD 15 with
  | true =>
    rw [hbit] at hz
    have hlow := congrArg (BitVec.getLsbD · 0) hz
    simp [polyIf] at hlow
  | false =>
    have hsmall : 2 * a.toNat < 2 ^ 16 := BitVec.msb_eq_false_iff_two_mul_lt.mp hbit
    have hshift : a <<< 1 = 0 := by
      rw [hbit] at hz
      simpa [polyIf] using hz
    bv_omega

theorem crcShifts_zero_word (n : Nat) : crcShifts n 0 = 0 := by
  induction n with
  | zero => rfl
  | succ n ih => exact ih

theorem crcShifts_xor (n : Nat) (a b : Word) : crcShifts n (a ^^^ b) = crcShifts n a ^^^ crcShifts n b := by
  induction n generalizing a b with
  | zero => rfl
  | succ n ih => rw [crcShifts, crcShift_xor, ih]; rfl

theorem crcShifts_ne_zero (n : Nat) {a : Word} (ha : a ≠ 0) : crcShifts n a ≠ 0 := by
  induction n generalizing a with
  | zero => exact ha
  | succ n ih => exact ih (crcShift_ne_zero ha)

theorem crcShifts_add (m n : Nat) (a : Word) : crcShifts (m + n) a = crcShifts n (crcShifts m a) := by
  induction m generalizing a with
  | zero => rw [Nat.zero_add]; rfl
  | succ m ih => rw [Nat.succ_add]; exact ih _

/-- While only zeros leave at the top, the bit steps are a plain shift. -/
theorem crcShifts_of_high_bits_zero {n : Nat} {a : Word} (h : ∀ k < n, a.getLsbD (15 - k) = false) :
    crcShifts n a = a <<< n := by
  induction n generalizing a with
  | zero => simp [crcShifts]
  | succ n ih =>
    have hstep : crcShift a = a <<< 1 := by
      rw [crcShift_eq, h 0 n.succ_pos]
      simp [polyIf]
    have hrest : ∀ k < n, (a <<< 1).getLsbD (15 - k) = false := by
      intro k hk
      rw [BitVec.getLsbD_shiftLeft, Nat.sub_sub, h (k + 1) (Nat.succ_lt_succ hk), Bool.and_false]
    rw [crcShifts, hstep, ih hrest, ← BitVec.shiftLeft_add, Nat.add_comm]

/-! ### The two halves of a word -/

/-- A byte in the top half of a word, where BuildTable starts (rule R120). -/
def highByte (b : Byte) : Word := b.setWidth 16 <<< 8

/-- A byte in the bottom half of a word. -/
def lowByte (b : Byte) : Word := b.setWidth 16

theorem highByte_xor (a b : Byte) : highByte (a ^^^ b) = highByte a ^^^ highByte b := by
  rw [highByte, BitVec.setWidth_xor, BitVec.shiftLeft_xor_distrib]; rfl

theorem highByte_xor_lowByte (c : Word) : highByte (c.extractLsb' 8 8) ^^^ lowByte (c.extractLsb' 0 8) = c := by
  unfold highByte lowByte
  ext i hi
  interval_cases i <;> simp

theorem highByte_extractLow (c : Word) : highByte (c.extractLsb' 0 8) = c <<< 8 := by
  unfold highByte
  ext i hi
  interval_cases i <;> simp

theorem crcShifts_lowByte (b : Byte) : crcShifts 8 (lowByte b) = highByte b := by
  refine crcShifts_of_high_bits_zero fun k hk => ?_
  rw [lowByte, BitVec.getLsbD_setWidth, BitVec.getLsbD_of_ge b _ (by omega), Bool.and_false]

theorem numByte_one (c : Word) : numByte c.toNat 1 = c.extractLsb' 8 8 := by
  simp [numByte, BitVec.toNat_eq, Nat.shiftRight_eq_div_pow]

theorem numByte_zero (c : Word) : numByte c.toNat 0 = c.extractLsb' 0 8 := by
  simp [numByte, BitVec.toNat_eq]

/-! ### The table (rule R120) -/

theorem tableRead_builtCrcTable (i : Byte) : tableRead builtCrcTable i = crcShifts 8 (highByte i) := by
  simp [tableRead, builtCrcTable, crcTableEntry, highByte]

theorem tableRead_builtCrcTable_xor (i j : Byte) :
    tableRead builtCrcTable (i ^^^ j) = tableRead builtCrcTable i ^^^ tableRead builtCrcTable j := by
  simp only [tableRead_builtCrcTable, highByte_xor, crcShifts_xor]

theorem exec_buildTable (s : State) : exec .buildTable s = .next (s.withCrcTable builtCrcTable) := rfl

/-- A bit step with a byte in the top half feeds the byte's top bit into the remainder and moves the next bit up. -/
theorem crcShift_xor_highByte (c : Word) (v : Byte) :
    crcShift (c ^^^ highByte v) = refCrcBit c (v.getLsbD 7) ^^^ highByte (v <<< 1) := by
  have hv : crcShift (highByte v) = polyIf (v.getLsbD 7) ^^^ highByte (v <<< 1) := by
    have hbit : (highByte v).getLsbD 15 = v.getLsbD 7 := by simp [highByte]
    have hshift : highByte v <<< 1 = highByte (v <<< 1) := by
      unfold highByte
      ext i hi
      interval_cases i <;> simp
    rw [crcShift_eq, hbit, hshift, BitVec.xor_comm]
  rw [crcShift_xor, hv, refCrcBit_eq, BitVec.xor_assoc]

theorem refCrcByte_eq (c : Word) (b : Byte) : refCrcByte c b = crcShifts 8 (c ^^^ highByte b) := by
  have hout : highByte 0#8 = 0#16 := rfl
  simp [refCrcByte, crcShifts, crcShift_xor_highByte, ← BitVec.shiftLeft_add, hout]

/-- Settles O8: an entry is 8 bit steps of the byte in the top half, which the bit-serial remainder is too, and which is
linear. -/
theorem buildTableFillsTheTable : Obligations.BuildTableFillsTheTable := by
  refine ⟨exec_buildTable, fun i => ?_, ?_, ?_, ?_, ?_, tableRead_builtCrcTable_xor⟩
  · simp [tableRead_builtCrcTable, refCrcByte_eq]
  all_goals rw [tableRead_builtCrcTable]; decide

/-! ### Bytes folded in (rules R121, R123) -/

theorem crcUpdate_builtCrcTable (c : Word) (b : Byte) :
    crcUpdate builtCrcTable c b = crcShifts 8 (c ^^^ highByte b) := by
  calc crcUpdate builtCrcTable c b
      = c <<< 8 ^^^ crcShifts 8 (highByte (c.extractLsb' 8 8) ^^^ highByte b) := by
        rw [crcUpdate, tableRead_builtCrcTable, highByte_xor]
    _ = crcShifts 8 (lowByte (c.extractLsb' 0 8) ^^^ (highByte (c.extractLsb' 8 8) ^^^ highByte b)) := by
        rw [crcShifts_xor 8 (lowByte _), crcShifts_lowByte, highByte_extractLow]
    _ = crcShifts 8 (c ^^^ highByte b) := by
        rw [← BitVec.xor_assoc, BitVec.xor_comm (lowByte _), highByte_xor_lowByte]

theorem crcSpan_append (table : CrcTable) (seed : Word) (d e : List Byte) :
    crcSpan table seed (d ++ e) = crcSpan table (crcSpan table seed d) e := List.foldl_append

/-- A two-byte trailer (rule R124): the low byte, XORed in after 8 bit steps, is 8 bit steps of itself. -/
theorem crcSpan_trailer (c t : Word) :
    crcSpan builtCrcTable c [numByte t.toNat 1, numByte t.toNat 0] = crcShifts 16 (c ^^^ t) := by
  calc crcSpan builtCrcTable c [numByte t.toNat 1, numByte t.toNat 0]
      = crcShifts 8 (crcShifts 8 (c ^^^ highByte (t.extractLsb' 8 8)) ^^^ highByte (t.extractLsb' 0 8)) := by
        simp only [crcSpan, List.foldl_cons, List.foldl_nil, crcUpdate_builtCrcTable, numByte_one, numByte_zero]
    _ = crcShifts 8 (crcShifts 8 (c ^^^ highByte (t.extractLsb' 8 8) ^^^ lowByte (t.extractLsb' 0 8))) := by
        rw [← crcShifts_lowByte (t.extractLsb' 0 8), ← crcShifts_xor]
    _ = crcShifts 16 (c ^^^ t) := by rw [← crcShifts_add, BitVec.xor_assoc, highByte_xor_lowByte]

/-- The residue of a span is 16 bit steps of the difference between its CRC and the trailer. -/
theorem crcSpan_append_trailer (seed t : Word) (d : List Byte) :
    crcSpan builtCrcTable seed (d ++ [numByte t.toNat 1, numByte t.toNat 0]) =
      crcShifts 16 (crcSpan builtCrcTable seed d ^^^ t) := by
  rw [crcSpan_append, crcSpan_trailer]

/-- The CRC of V2's nine bytes, "123456789", by the bit steps. -/
theorem crcSpan_nineDigits :
    crcSpan builtCrcTable 0xFFFF [0x31, 0x32, 0x33, 0x34, 0x35, 0x36, 0x37, 0x38, 0x39] = 0x29B1 := by
  simp only [crcSpan, List.foldl_cons, List.foldl_nil, crcUpdate_builtCrcTable]
  decide +kernel

/-- Settles O6: the trailer is the CRC itself, so the difference that the 16 bit steps start from is zero. -/
theorem residueLaw : Obligations.ResidueLaw := by
  refine ⟨fun d => ?_, crcSpan_nineDigits, ?_⟩
  · exact (crcSpan_append_trailer ..).trans (by rw [BitVec.xor_self]; exact crcShifts_zero_word 16)
  · have hswapped := crcSpan_append_trailer 0xFFFF 0xB129 [0x31, 0x32, 0x33, 0x34, 0x35, 0x36, 0x37, 0x38, 0x39]
    rw [crcSpan_nineDigits] at hswapped
    exact hswapped.trans (by decide +kernel)

/-! ### A flipped trailer bit (rule R125) -/

theorem twoPow_toNat {j : Nat} (hj : j < 16) : (BitVec.ofNat 16 (2 ^ j)).toNat = 2 ^ j := by
  rw [BitVec.toNat_ofNat, Nat.mod_eq_of_lt (Nat.pow_lt_pow_right Nat.one_lt_two hj)]

theorem twoPow_ne_zero {j : Nat} (hj : j < 16) : BitVec.ofNat 16 (2 ^ j) ≠ 0 :=
  fun hz => (Nat.two_pow_pos j).ne' ((twoPow_toNat hj).symm.trans (congrArg BitVec.toNat hz))

/-- Settles O7: the difference is the error pattern, and no number of bit steps takes a word but zero to zero. -/
theorem singleTrailerBitErrorIsDetected : Obligations.SingleTrailerBitErrorIsDetected := by
  intro d j hj t residue
  have hres : residue = crcShifts 16 (BitVec.ofNat 16 (2 ^ j)) := by
    refine (crcSpan_append_trailer ..).trans ?_
    rw [← BitVec.xor_assoc, BitVec.xor_self, BitVec.zero_xor]
  refine ⟨?_, ?_, ?_⟩
  · have hpattern := crcSpan_trailer 0#16 (BitVec.ofNat 16 (2 ^ j))
    rw [twoPow_toNat hj, BitVec.zero_xor] at hpattern
    exact hres.trans hpattern.symm
  · rw [hres]
    exact crcShifts_ne_zero 16 (twoPow_ne_zero hj)
  · rintro rfl
    rw [hres]
    decide +kernel

end Sys2Proof.Proofs.Crc
end

section
/-! The frame receiver (41_frame_receiver.md): what RxReset leaves, and the step that the five sync-locked states share, for a
byte that neither overflows the frame nor ends it. -/

namespace Sys2Proof.Proofs.Receiver

open Sys2Proof.Machine Sys2Proof.Proofs.Crc

/-! ### RxReset (rule R140) -/

theorem exec_rxReset (s : State) : exec .rxReset s = .next (rxReset s) := rfl

theorem recsCleared_length (cfg : Config) : (recsCleared cfg).length = cfg.maxCmds := List.length_replicate

theorem eq_zero_of_mem_recsCleared {cfg : Config} {r : CmdRecord} (h : r ∈ recsCleared cfg) : r = ⟨0, 0⟩ :=
  List.eq_of_mem_replicate h

/-- Settles O26: a second RxReset changes nothing since RxReset keeps the parameters, the one thing its result depends on. -/
theorem rxResetResult : Obligations.RxResetResult := by
  intro s
  have htwice : exec .rxReset (rxReset s) = .next (rxReset s) := by rw [exec_rxReset, rxReset_rxReset]
  refine ⟨rxReset s, exec_rxReset s, htwice, ?_⟩
  simp only [rxReset_cfg, rxReset_inst, rxReset_crcTable, rxReset_link, rxReset_inbound, rxReset_returned, rxReset_probe,
    rxReset_freeCount, rxReset_rx, true_and]
  have hrecs : ∀ r ∈ recsCleared s.cfg, r.off = 0 ∧ r.cnt = 0 := by
    intro r hr
    rw [eq_zero_of_mem_recsCleared hr]
    exact ⟨rfl, rfl⟩
  simp only [rxCleared, Memory.read_nil, recsCleared_length, implies_true, true_and]
  exact hrecs

/-! ### The step of a sync-locked state (rules R141, R142) -/

theorem crcUpdate_eq_refCrcByte (c : Word) (b : Byte) : crcUpdate builtCrcTable c b = refCrcByte c b := by
  rw [crcUpdate_builtCrcTable, refCrcByte_eq]

theorem overflowed_eq_false {cfg : Config} {rx : Receiver} : overflowed cfg rx = false ↔ rx.pos ≤ cfg.maxPacketSize := by
  simp [overflowed]

theorem atFrameEnd_eq_false {rx : Receiver} :
    atFrameEnd rx = false ↔ ¬ (rx.lenOk = true ∧ rx.pos = rx.frameEnd.toNat) := by
  simp [atFrameEnd]

theorem countByte_not_overflowed {s : State} {b : Byte} (h : midFrame s) :
    overflowed (countByte s b).cfg (countByte s b).rx = false := overflowed_eq_false.mpr h.1

theorem countByte_not_atFrameEnd {s : State} {b : Byte} (h : midFrame s) : atFrameEnd (countByte s b).rx = false :=
  atFrameEnd_eq_false.mpr h.2

theorem countByte_withLast {s : State} (b : Byte) (ht : s.crcTable = builtCrcTable) :
    (countByte s b).withRx { (countByte s b).rx with last := b } = { s with rx := byteCounted s.rx b } := by
  simp only [countByte, State.withRx, byteCounted, ht, crcUpdate_eq_refCrcByte]

/-- Below the overflow guard the step is the state rule on the counted byte, then the end of the step. -/
theorem lockedByte_of_midFrame {s : State} (rule : State → Byte → Word → Res After) (b : Byte) (h : midFrame s) :
    lockedByte rule s b = (rule (countByte s b) b (window s.rx b) >>= finishByte b) := by
  simp [lockedByte, countByte_not_overflowed h]

theorem finishByte_goesOn {s : State} (b : Byte) (h : atFrameEnd s.rx = false) :
    finishByte b (.goesOn s) = .ok (s.withRx { s.rx with last := b }) := by
  simp [finishByte, h]

/-- Where the state rule does nothing, a byte in mid-frame is only counted. -/
theorem lockedByte_of_rule_goesOn {s : State} {rule : State → Byte → Word → Res After} {b : Byte}
    (ht : s.crcTable = builtCrcTable) (hm : midFrame s)
    (hrule : rule (countByte s b) b (window s.rx b) = .ok (.goesOn (countByte s b))) :
    lockedByte rule s b = .ok { s with rx := byteCounted s.rx b } := by
  rw [lockedByte_of_midFrame rule b hm, hrule, ok_bind, finishByte_goesOn b (countByte_not_atFrameEnd hm),
    countByte_withLast b ht]

/-! ### LENGTH (rule R144) -/

theorem exec_rxByteLength {s : State} (b : Byte) (h : s.rx.rxState = .length) :
    exec (.rxByteLength b) s = toOutcome (lockedByte lengthRule s b) :=
  inRxState_eq h _

theorem lengthRule_of_pos_ne {s : State} (b : Byte) (w : Word) (h : s.rx.pos ≠ 6) :
    lengthRule s b w = .ok (.goesOn s) := if_neg h

/-- Settles O29: the rule of LENGTH acts at p = 6 alone, which a byte that comes in at another `pos` than 5 does not reach. -/
theorem lengthByteOnlyCounted : Obligations.LengthByteOnlyCounted := by
  intro s b hst ht hm hpos
  have hnot6 : (countByte s b).rx.pos ≠ 6 := fun h6 => hpos (Nat.succ.inj h6)
  rw [exec_rxByteLength b hst, lockedByte_of_rule_goesOn ht hm (lengthRule_of_pos_ne b _ hnot6), toOutcome_ok]

end Sys2Proof.Proofs.Receiver
end

section
/-! Decoding and encoding are inverse (rules R96, R97): the four fields of an operation word are all of its bits, and each part
of the decoder answers an operation for the operands of that operation only. -/

namespace Sys2Proof.Proofs.Decoding

open Sys2Proof.Machine Sys2Proof.Laws Sys2Proof.Proofs.Encoding

/-! ### Codes of states and alarms -/

@[simp] theorem rxStateOfCode_code (st : RxState) : rxStateOfCode st.code = some st := by
  cases st <;> rfl

@[simp] theorem alarmOfCode_code (code : AlarmCode) : alarmOfCode code.code = some code := by
  cases code <;> rfl

theorem code_of_rxStateOfCode {c : BitVec 3} {st : RxState} (h : rxStateOfCode c = some st) : st.code = c := by
  apply BitVec.eq_of_toNat_eq
  unfold rxStateOfCode at h
  split at h
  case h_7 => cases h
  all_goals
    cases h
    symm
    assumption

theorem code_of_alarmOfCode {c : Byte} {code : AlarmCode} (h : alarmOfCode c = some code) : code.code = c := by
  apply BitVec.eq_of_toNat_eq
  unfold alarmOfCode at h
  split at h
  case h_6 => cases h
  all_goals
    cases h
    symm
    assumption

/-! ### Decoding an encoding -/

theorem zeroFields_of_plainWord (sel : BitVec 4) (k : Except DecodeError Instr) :
    zeroFields (operationWord sel 0#3 0#8) k = k := by
  simp [zeroFields, operationWord_state, operationWord_data]

theorem decode_rxByteWord (st : RxState) (b : Byte) : decode ⟨rxByteWord st b, .nothing⟩ = .ok (rxByteInstr st b) := by
  have hb : bit11 (rxByteWord st b) = false := operationWord_bit11 ..
  have hs : selectorField (rxByteWord st b) = 0x1 := operationWord_selector ..
  rw [decode_of_selector_1 (o := ⟨rxByteWord st b, .nothing⟩) hb hs]
  simp [decodeRxByte, rxByteWord, operationWord_state, operationWord_data, noBeside]

theorem decode_alarmWord (code : AlarmCode) :
    decode ⟨operationWord 0xC 0 code.code, .nothing⟩ = .ok (.sendAlarm code) := by
  have hb : bit11 (operationWord 0xC 0 code.code) = false := operationWord_bit11 ..
  have hs : selectorField (operationWord 0xC 0 code.code) = 0xC := operationWord_selector ..
  rw [decode_of_selector_C (o := ⟨operationWord 0xC 0 code.code, .nothing⟩) hb hs]
  simp [decodeSendAlarm, operationWord_state, operationWord_data, noBeside]

theorem decode_echoWord (x : Beside) : decode ⟨operationWord 0xB 0 0, x⟩ = sendEchoBeside x := by
  simp [decode, operationWord_bit11, operationWord_selector, zeroFields_of_plainWord]

/-- Settles O1: an RxByte or SendAlarm word gives its code back, and any other word its selector, with zeros elsewhere. -/
theorem decodeOfEncodeGivesTheOperation : Obligations.DecodeOfEncodeGivesTheOperation := by
  intro i hwf
  cases i with
  | rxByteIdle b => exact decode_rxByteWord .idle b
  | rxByteLength b => exact decode_rxByteWord .length b
  | rxByteTimeStart b => exact decode_rxByteWord .timeStart b
  | rxByteTime b => exact decode_rxByteWord .time b
  | rxByteCmdStart b => exact decode_rxByteWord .cmdStart b
  | rxByteCmd b => exact decode_rxByteWord .cmd b
  | sendAlarm code => exact decode_alarmWord code
  | sendEcho opcode args result =>
    have hargs : echoArgsOk args := of_decide_eq_true hwf
    exact (decode_echoWord _).trans (if_pos hargs)
  | reset | buildTable | crcUpdate | seqAdvance | seqReset | hbToggle | pwrToggle | metAdvance | dispatch | sendStatus
  | rxReset | crcResidueCheck =>
    simp [encode, decode, operationWord_bit11, operationWord_selector, zeroFields_of_plainWord, noBeside, crcUpdateBeside,
      crcResidueCheckBeside]

/-! ### Encoding what was decoded -/

/-- With bit 11 clear the three other fields are the whole word. -/
theorem operationWord_of_fields {w : Word} (hb : bit11 w = false) :
    operationWord (selectorField w) (stateField w) (dataField w) = w := by
  unfold operationWord selectorField stateField dataField
  ext i hi
  interval_cases i <;> simp_all [bit11]

/-- A word without state field and data bits is made from its selector. -/
theorem plainWord_eq {w : Word} (hb : bit11 w = false) (hs : stateField w = 0) (hd : dataField w = 0) :
    operationWord (selectorField w) 0 0 = w := by
  rw [← operationWord_of_fields hb, hs, hd, operationWord_selector]

theorem noBeside_ok {x : Beside} {i j : Instr} (h : noBeside x j = .ok i) : x = .nothing ∧ i = j := by
  cases x <;> simp_all [noBeside]

theorem crcUpdateBeside_ok {x : Beside} {i : Instr} (h : crcUpdateBeside x = .ok i) :
    ∃ c b, x = .crcByte c b ∧ i = .crcUpdate c b := by
  cases x <;> simp_all [crcUpdateBeside]

theorem crcResidueCheckBeside_ok {x : Beside} {i : Instr} (h : crcResidueCheckBeside x = .ok i) :
    ∃ c, x = .crc c ∧ i = .crcResidueCheck c := by
  cases x <;> simp_all [crcResidueCheckBeside]

theorem sendEchoBeside_ok {x : Beside} {i : Instr} (h : sendEchoBeside x = .ok i) :
    ∃ opcode args result, x = .echo opcode args result ∧ i = .sendEcho opcode args result ∧ echoArgsOk args := by
  cases x with
  | echo opcode args result =>
    by_cases ha : echoArgsOk args
    · rw [sendEchoBeside, if_pos ha] at h
      cases h
      exact ⟨_, _, _, rfl, rfl, ha⟩
    · rw [sendEchoBeside, if_neg ha] at h
      cases h
  | nothing | crc _ | crcByte _ _ => cases h

theorem zeroFields_ok {w : Word} {k : Except DecodeError Instr} {i : Instr} (h : zeroFields w k = .ok i) :
    stateField w = 0 ∧ dataField w = 0 ∧ k = .ok i := by
  by_cases hs : stateField w = 0
  · by_cases hd : dataField w = 0
    · exact ⟨hs, hd, by simpa [zeroFields, hs, hd] using h⟩
    · rw [zeroFields, if_neg (not_not.mpr hs), if_pos hd] at h
      cases h
  · rw [zeroFields, if_pos hs] at h
    cases h

/-- The RxByte rows of rule R96 are one row with the state as a field. -/
theorem encode_rxByteInstr (st : RxState) (b : Byte) : encode (rxByteInstr st b) = ⟨rxByteWord st b, .nothing⟩ := by
  cases st <;> rfl

theorem rxByteInstr_wellFormed (st : RxState) (b : Byte) : (rxByteInstr st b).WellFormed = true := by
  cases st <;> rfl

theorem decodeRxByte_ok {o : Operation} {i : Instr} (hb : bit11 o.word = false) (hsel : selectorField o.word = 0x1)
    (h : decodeRxByte o = .ok i) : encode i = o ∧ i.WellFormed = true := by
  obtain ⟨w, x⟩ := o
  unfold decodeRxByte at h
  split at h
  · rename_i st hst
    obtain ⟨rfl, rfl⟩ := noBeside_ok h
    have hw : rxByteWord st (dataField w) = w := by
      rw [rxByteWord, code_of_rxStateOfCode hst, ← hsel, operationWord_of_fields hb]
    exact ⟨by rw [encode_rxByteInstr, hw], rxByteInstr_wellFormed ..⟩
  · cases h

theorem decodeSendAlarm_ok {o : Operation} {i : Instr} (hb : bit11 o.word = false) (hsel : selectorField o.word = 0xC)
    (h : decodeSendAlarm o = .ok i) : encode i = o ∧ i.WellFormed = true := by
  obtain ⟨w, x⟩ := o
  unfold decodeSendAlarm at h
  split at h
  · cases h
  rename_i hst
  split at h
  · rename_i code hcode
    obtain ⟨rfl, rfl⟩ := noBeside_ok h
    have hw : operationWord 0xC 0 code.code = w := by
      rw [code_of_alarmOfCode hcode, ← hsel, ← not_not.mp hst, operationWord_of_fields hb]
    exact ⟨by rw [encode, hw], rfl⟩
  · cases h

/-- A row of rule R96 with neither state field nor data bits: its word is `operationWord n 0 0`, and `hk` says what its operands
beside the word decode to. -/
theorem zeroFields_ok_encode {o : Operation} {i : Instr} {k : Except DecodeError Instr} {n : Nat}
    (hb : bit11 o.word = false) (hsel : (selectorField o.word).toNat = n) (h : zeroFields o.word k = .ok i)
    (hk : k = .ok i → encode i = ⟨operationWord (BitVec.ofNat 4 n) 0 0, o.beside⟩ ∧ i.WellFormed = true) :
    encode i = o ∧ i.WellFormed = true := by
  obtain ⟨hs, hd, hi⟩ := zeroFields_ok h
  obtain ⟨henc, hwf⟩ := hk hi
  have hn : BitVec.ofNat 4 n = selectorField o.word := by rw [← hsel, BitVec.ofNat_toNat, BitVec.setWidth_eq]
  exact ⟨by rw [henc, hn, plainWord_eq hb hs hd], hwf⟩

/-- As `zeroFields_ok_encode`, for a row without operands beside its word. -/
theorem noBeside_ok_encode {o : Operation} {i j : Instr} {n : Nat} (hb : bit11 o.word = false)
    (hsel : (selectorField o.word).toNat = n) (h : zeroFields o.word (noBeside o.beside j) = .ok i)
    (hj : encode j = ⟨operationWord (BitVec.ofNat 4 n) 0 0, .nothing⟩) (hwf : j.WellFormed = true) :
    encode i = o ∧ i.WellFormed = true := by
  refine zeroFields_ok_encode hb hsel h fun hk => ?_
  obtain ⟨hx, rfl⟩ := noBeside_ok hk
  exact ⟨by rw [hj, hx], hwf⟩

/-- Settles O2: selector by selector, what the decoder accepts is the word of the row and the operands of its operation. -/
theorem decodedOperationHasItsOwnEncoding : Obligations.DecodedOperationHasItsOwnEncoding := by
  intro o i h
  unfold decode at h
  split at h
  · cases h
  rename_i hb
  replace hb : bit11 o.word = false := by simpa using hb
  split at h
  case h_2 hsel => exact decodeRxByte_ok hb (BitVec.eq_of_toNat_eq hsel) h
  case h_13 hsel => exact decodeSendAlarm_ok hb (BitVec.eq_of_toNat_eq hsel) h
  case h_4 hsel =>
    refine zeroFields_ok_encode hb hsel h fun hk => ?_
    obtain ⟨c, b, hx, rfl⟩ := crcUpdateBeside_ok hk
    exact ⟨by rw [hx]; rfl, rfl⟩
  case h_12 hsel =>
    refine zeroFields_ok_encode hb hsel h fun hk => ?_
    obtain ⟨opcode, args, result, hx, rfl, ha⟩ := sendEchoBeside_ok hk
    exact ⟨by rw [hx]; rfl, decide_eq_true ha⟩
  case h_15 hsel =>
    refine zeroFields_ok_encode hb hsel h fun hk => ?_
    obtain ⟨c, hx, rfl⟩ := crcResidueCheckBeside_ok hk
    exact ⟨by rw [hx]; rfl, rfl⟩
  case h_16 => cases h
  all_goals exact noBeside_ok_encode hb ‹_› h rfl rfl

/-- Settles O4: six closed evaluations of the decoder. -/
theorem sampleWordsDecode : Obligations.SampleWordsDecode := by
  refine ⟨?_, ?_, ?_, ?_, ?_, ?_⟩ <;> decide

end Sys2Proof.Proofs.Decoding
end

section
/-! The operations that send nothing: the CRC engine over whole spans (40_crc_engine.md), its two operations, and the count and
toggle operations of the instrument state (42_instrument_state.md). -/

namespace Sys2Proof.Proofs.Engine

open Sys2Proof.Machine Sys2Proof.Proofs.Crc Sys2Proof.Proofs.Receiver

/-! ### The CRC engine -/

theorem crcSpan_eq_refCrc (seed : Word) (d : List Byte) : crcSpan builtCrcTable seed d = refCrc seed d := by
  induction d generalizing seed with
  | nil => rfl
  | cons b d ih =>
    calc crcSpan builtCrcTable seed (b :: d)
        = crcSpan builtCrcTable (crcUpdate builtCrcTable seed b) d := rfl
      _ = refCrc (refCrcByte seed b) d := by rw [crcUpdate_eq_refCrcByte, ih]

/-- Settles O5, by induction on the span: one fold of the table engine is eight message bits. -/
theorem tableEngineEqualsBitSerialCrc : Obligations.TableEngineEqualsBitSerialCrc := crcSpan_eq_refCrc

theorem extractHigh_eq_ofNat (c : Word) : c.extractLsb' 8 8 = BitVec.ofNat 8 (c.toNat / 256) := by
  apply BitVec.eq_of_toNat_eq
  simp [Nat.shiftRight_eq_div_pow]

theorem shiftByte_eq_ofNat (c : Word) : c <<< 8 = BitVec.ofNat 16 (c.toNat * 256) := by
  apply BitVec.eq_of_toNat_eq
  simp [Nat.shiftLeft_eq]

theorem exec_crcUpdate (c : Word) (b : Byte) (s : State) :
    exec (.crcUpdate c b) s = .next (s.withReturned (.crc (crcUpdate s.crcTable c b))) := rfl

theorem crcUpdate_eq_fold (table : CrcTable) (c : Word) (b : Byte) :
    crcUpdate table c b =
      BitVec.ofNat 16 (c.toNat * 256 % 65536) ^^^ tableRead table (BitVec.ofNat 8 (c.toNat / 256) ^^^ b) := by
  have hmod : BitVec.ofNat 16 (c.toNat * 256 % 65536) = c <<< 8 := by
    rw [shiftByte_eq_ofNat]
    exact BitVec.eq_of_toNat_eq (by simp)
  rw [crcUpdate, hmod, extractHigh_eq_ofNat]

/-- The byte in the top of the checksum picks entry 0, which is zero. -/
theorem crcUpdate_topByte (c : Word) :
    crcUpdate builtCrcTable c (BitVec.ofNat 8 (c.toNat / 256)) = BitVec.ofNat 16 (c.toNat * 256) := by
  have hzero : tableRead builtCrcTable 0#8 = 0#16 := by
    rw [tableRead_builtCrcTable]
    exact crcShifts_zero_word 8
  rw [crcUpdate, extractHigh_eq_ofNat, BitVec.xor_self, hzero, BitVec.xor_zero, shiftByte_eq_ofNat]

/-- Settles O9: the model's shift and extraction, read as a product and a quotient. -/
theorem crcUpdateReturnsTheFold : Obligations.CrcUpdateReturnsTheFold := by
  refine ⟨fun c b s => ?_, fun c s ht => ?_⟩
  · rw [exec_crcUpdate, crcUpdate_eq_fold]
    rfl
  · have hfold : crcUpdate s.crcTable c (BitVec.ofNat 8 (c.toNat / 256)) = BitVec.ofNat 16 (c.toNat * 256) := by
      rw [ht, crcUpdate_topByte]
    rw [exec_crcUpdate, hfold]
    rfl

theorem exec_crcResidueCheck (c : Word) (s : State) :
    exec (.crcResidueCheck c) s = .next (s.withReturned (.residue (decide (c = 0)))) := rfl

/-- Settles O10: the pass is the test for zero. -/
theorem residueCheckPassesExactlyAtZero : Obligations.ResidueCheckPassesExactlyAtZero := by
  refine ⟨fun s => rfl, fun c s hc => ?_⟩
  rw [exec_crcResidueCheck, decide_eq_false hc]
  rfl

/-! ### The instrument state -/

theorem seq_add_ofNat (q : BitVec 14) (n : Nat) : q + BitVec.ofNat 14 n = BitVec.ofNat 14 (q.toNat + n) := by
  rw [BitVec.ofNat_add, BitVec.ofNat_toNat, BitVec.setWidth_eq]

/-- Settles O11: a 14-bit sum is the sum mod 2^14. -/
theorem sequenceCountOperations : Obligations.SequenceCountOperations := by
  intro s
  have hseq : s.inst.seq + 1 = BitVec.ofNat 14 ((s.inst.seq.toNat + 1) % 16384) := by
    rw [show (1 : BitVec 14) = BitVec.ofNat 14 1 from rfl, seq_add_ofNat]
    exact BitVec.eq_of_toNat_eq (by simp)
  refine ⟨?_, rfl⟩
  rw [← hseq]
  rfl

/-- Settles O12: both are the model's own update. -/
theorem bitToggleOperations : Obligations.BitToggleOperations := fun _ => ⟨rfl, rfl⟩

end Sys2Proof.Proofs.Engine
end

section
/-! The telemetry assembler (43_dispatch_telemetry.md). The model builds a packet from bit fields and the CRC table; read as
numbers and bit by bit it is the reference packet, so each send answers the reference send. -/

namespace Sys2Proof.Proofs.Telemetry

open Sys2Proof.Machine Sys2Proof.Proofs.Crc Sys2Proof.Proofs.Decoding Sys2Proof.Proofs.Engine

/-! ### The head of a packet (rules R87, R221 to R226) -/

theorem flagsByte_eq : ∀ (hb pw : Bool) (high : BitVec 3),
    ((BitVec.ofBool hb).setWidth 8 <<< 7 ||| (BitVec.ofBool pw).setWidth 8 <<< 6 ||| high.setWidth 8 : Byte) =
      BitVec.ofNat 8 (bitNat hb * 128 + bitNat pw * 64 + high.toNat) := by decide

theorem subHeaderByte_eq : ∀ high : BitVec 3, (0x08 ||| high.setWidth 8 : Byte) = BitVec.ofNat 8 (8 + high.toNat) := by
  decide

theorem groupingByte_eq : ∀ high : BitVec 6, (0xC0 ||| high.setWidth 8 : Byte) = BitVec.ofNat 8 (192 + high.toNat) := by
  decide

theorem extractLsb'_byte_eq_numByte {n : Nat} (v : BitVec n) (i : Nat) : v.extractLsb' (8 * i) 8 = numByte v.toNat i := by
  apply BitVec.eq_of_toNat_eq
  simp [numByte, Nat.shiftRight_eq_div_pow, Nat.pow_mul]

/-- The length field has 11 bits: of the body length's second byte it holds the low three. -/
theorem bodyLength_high (n : Nat) : (BitVec.ofNat 11 n).toNat / 256 = n / 256 % 8 := by
  rw [BitVec.toNat_ofNat]
  omega

theorem bodyLength_low (n : Nat) : (BitVec.ofNat 11 n).extractLsb' 0 8 = numByte n 0 := by
  apply BitVec.eq_of_toNat_eq
  simp only [BitVec.extractLsb'_toNat, BitVec.toNat_ofNat, Nat.shiftRight_eq_div_pow, numByte]
  omega

theorem wordBytes_eq (v : Word) : wordBytes v = [numByte v.toNat 1, numByte v.toNat 0] := by
  rw [numByte_one, numByte_zero]
  rfl

theorem wordBytes_ofNat (n : Nat) : wordBytes (BitVec.ofNat 16 n) = [numByte n 1, numByte n 0] := by
  have hhigh : numByte (n % 65536) 1 = numByte n 1 := congrArg (BitVec.ofNat 8) (by omega)
  have hlow : numByte (n % 65536) 0 = numByte n 0 := congrArg (BitVec.ofNat 8) (by omega)
  rw [wordBytes_eq, BitVec.toNat_ofNat, hhigh, hlow]

theorem longBytes_eq (v : Long) :
    longBytes v = [numByte v.toNat 3, numByte v.toNat 2, numByte v.toNat 1, numByte v.toNat 0] := by
  simp only [← extractLsb'_byte_eq_numByte]
  rfl

theorem high_of_11_bits (v : BitVec 11) : (v.extractLsb' 8 3).toNat = v.toNat / 256 := by
  simp only [BitVec.extractLsb'_toNat, Nat.shiftRight_eq_div_pow]
  omega

theorem seq_high (seq : BitVec 14) : (seq.extractLsb' 8 6).toNat = seq.toNat / 256 := by
  simp only [BitVec.extractLsb'_toNat, Nat.shiftRight_eq_div_pow]
  omega

theorem packetHead_eq_refHead (inst : Instrument) (apid : BitVec 11) (total : Nat) :
    packetHead inst apid total = [0xFE, 0xFA, 0x30, 0xC8] ++ refHead inst apid.toNat total := by
  have happ : apid.extractLsb' 0 8 = numByte apid.toNat 0 := extractLsb'_byte_eq_numByte apid 0
  have hseq : inst.seq.extractLsb' 0 8 = numByte inst.seq.toNat 0 := extractLsb'_byte_eq_numByte inst.seq 0
  simp only [packetHead, refHead, flagsByte_eq, subHeaderByte_eq, groupingByte_eq, high_of_11_bits,
    bodyLength_high, bodyLength_low, seq_high, happ, hseq, wordBytes_ofNat, longBytes_eq]
  rfl

/-! ### The whole packet, and the sends -/

/-- The packet a send builds over the built table is the reference packet (rules R87, R221, R227). -/
theorem sentPacket_eq_refPacket {s : State} (ht : s.crcTable = builtCrcTable) (apid : BitVec 11) {total : Nat}
    {payload : List Byte} (htotal : total = payload.length + 18) :
    sentPacket s apid total payload = refPacket { s.inst with seq := s.inst.seq + 1 } apid.toNat payload := by
  have htable : (seqAdvance s).crcTable = builtCrcTable := ht
  have hinst : (seqAdvance s).inst = { s.inst with seq := s.inst.seq + 1 } := rfl
  subst htotal
  simp only [sentPacket, buildPacket, refPacket, htable, hinst, packetHead_eq_refHead, wordBytes_eq, crcSpan_eq_refCrc]
  rfl

theorem raiseAlarm_eq_afterAlarm {s : State} (ht : s.crcTable = builtCrcTable) (hc : s.CanSend) (code : AlarmCode) :
    raiseAlarm s code = .ok (afterAlarm s code.code) := by
  have hlen : alarmTotal = (alarmPayload code).length + 18 := rfl
  rw [raiseAlarm_eq hc, sentPacket_eq_refPacket ht _ hlen]
  rfl

theorem sendStatus_eq_afterStatus {s : State} (ht : s.crcTable = builtCrcTable) (hc : s.CanSend) :
    sendStatus s = .ok (afterStatus s) := by
  have hlen : statusTotal = statusPayload.length + 18 := by simp [statusTotal, statusPayload]
  rw [sendStatus_eq hc, sentPacket_eq_refPacket ht _ hlen]
  rfl

theorem echoPayload_eq_refEchoPayload (opcode : Byte) (args : List Byte) (result : Byte) :
    echoPayload opcode args result = refEchoPayload opcode args result := by
  unfold echoPayload refEchoPayload
  rcases Nat.mod_two_eq_zero_or_one args.length with h | h <;> simp [h]

theorem sendEcho_eq_afterEcho {s : State} (ht : s.crcTable = builtCrcTable) (hc : s.CanSend) (opcode : Byte)
    {args : List Byte} (ha : args.length ≤ maxArgs) (result : Byte) :
    sendEcho s opcode args result = .ok (afterEcho s opcode args result) := by
  rw [sendEcho_eq hc opcode ha, sentPacket_eq_refPacket ht _ (echoTotal_eq ..), echoPayload_eq_refEchoPayload]
  rfl

theorem exec_sendAlarm (code : AlarmCode) (s : State) : exec (.sendAlarm code) s = toOutcome (raiseAlarm s code) := rfl

theorem exec_sendStatus (s : State) : exec .sendStatus s = toOutcome (sendStatus s) := rfl

theorem exec_sendEcho (opcode : Byte) (args : List Byte) (result : Byte) (s : State) :
    exec (.sendEcho opcode args result) s = toOutcome (sendEcho s opcode args result) := rfl

theorem exec_sendAlarm_eq {s : State} (ht : s.crcTable = builtCrcTable) (hc : s.CanSend) (code : AlarmCode) :
    exec (.sendAlarm code) s = .next (afterAlarm s code.code) := by
  rw [exec_sendAlarm, raiseAlarm_eq_afterAlarm ht hc, toOutcome_ok]

/-- Settles O15: the packet of the model and that of the reference agree, and an alarm toggles no heartbeat. -/
theorem sendAlarmResult : Obligations.SendAlarmResult := by
  intro s ht hc
  exact ⟨exec_sendAlarm_eq ht hc .itfLength, exec_sendAlarm_eq ht hc .itfChecksum, exec_sendAlarm_eq ht hc .ccsdsFormat,
    exec_sendAlarm_eq ht hc .ccsdsApid, exec_sendAlarm_eq ht hc .ccsdsLength⟩

/-- Settles O16: as for the alarm, with the heartbeat toggled after the send. -/
theorem sendStatusResult : Obligations.SendStatusResult := by
  intro s ht hc
  rw [exec_sendStatus, sendStatus_eq_afterStatus ht hc, toOutcome_ok]

/-- Settles O17: as for the Status; the two payloads differ only in how they write the pad byte. -/
theorem sendEchoResult : Obligations.SendEchoResult := by
  intro s opcode args result ht hc ha
  rw [exec_sendEcho, sendEcho_eq_afterEcho ht hc opcode ha, toOutcome_ok]

/-! ### Sends that stop -/

theorem not_canSend {s : State} (hf : s.link.inFlight = true) (hd : s.link.drains = some 0) : ¬ s.CanSend := by
  simp [State.CanSend, hf, hd]

theorem sendStatus_held {s : State} (hc : ¬ s.CanSend) : sendStatus s = .error .heldInWaitDrained := by
  rw [sendStatus, send_held hc, error_bind]

theorem sendEcho_held {s : State} (hc : ¬ s.CanSend) (opcode : Byte) {args : List Byte} (ha : args.length ≤ maxArgs)
    (result : Byte) : sendEcho s opcode args result = .error .heldInWaitDrained := by
  rw [sendEcho, if_pos ha, send_held hc, error_bind]

/-- Settles O19: each of the three sends flushes before it builds anything. -/
theorem stalledTransportHoldsEverySend : Obligations.StalledTransportHoldsEverySend := by
  intro s hf hd
  have hc := not_canSend hf hd
  refine ⟨?_, fun code => ?_, fun opcode args result ha => ?_⟩
  · rw [exec_sendStatus, sendStatus_held hc, toOutcome_error]
  · rw [exec_sendAlarm, raiseAlarm, send_held hc, toOutcome_error]
  · rw [exec_sendEcho, sendEcho_held hc opcode ha, toOutcome_error]

/-- Settles O18: the decoder looks at the operands beside an Echo's word, and the send at its arguments, before anything else. -/
theorem echoArgumentsOutOfRangeStop : Obligations.EchoArgumentsOutOfRangeStop := by
  intro s opcode args result ha
  have hout : ¬ echoArgsOk args := Nat.not_le.mpr ha
  refine ⟨?_, ?_⟩
  · exact (decode_echoWord _).trans (if_neg hout)
  · rw [exec_sendEcho, sendEcho, if_neg hout, toOutcome_error]

/-! ### The residue of what is sent (rule R227) -/

@[simp] theorem refHead_length (inst : Instrument) (apid total : Nat) : (refHead inst apid total).length = 12 := rfl

theorem refPacket_length (inst : Instrument) (apid : Nat) (payload : List Byte) :
    (refPacket inst apid payload).length = payload.length + 18 := by
  simp [refPacket]
  omega

theorem refPacket_sync (inst : Instrument) (apid : Nat) (payload : List Byte) :
    (refPacket inst apid payload).take 4 = [0xFE, 0xFA, 0x30, 0xC8] := rfl

theorem refPacket_residue (inst : Instrument) (apid : Nat) (payload : List Byte) :
    crcSpan builtCrcTable 0xFFFF ((refPacket inst apid payload).drop 4) = 0 := by
  have hlaw := residueLaw.1 (refHead inst apid (payload.length + 18) ++ payload)
  rw [crcSpan_eq_refCrc 0xFFFF (_ ++ payload)] at hlaw
  exact hlaw

/-- What rule R227 asks of a packet of the size `total`. -/
def SoundPacket (p : Packet) (total : Nat) : Prop :=
  p.bytes.length = total ∧ p.bytes.take 4 = [0xFE, 0xFA, 0x30, 0xC8] ∧ crcSpan builtCrcTable 0xFFFF (p.bytes.drop 4) = 0

theorem refPacket_sound (kind : PacketKind) (inst : Instrument) (apid : Nat) {payload : List Byte} {total : Nat}
    (h : total = payload.length + 18) : SoundPacket ⟨kind, refPacket inst apid payload⟩ total :=
  ⟨(refPacket_length ..).trans h.symm, refPacket_sync .., refPacket_residue ..⟩

theorem refEchoPayload_length (opcode : Byte) (args : List Byte) (result : Byte) :
    (refEchoPayload opcode args result).length = 2 + args.length + args.length % 2 := by
  rw [← echoPayload_eq_refEchoPayload, echoPayload_length]

/-- Settles O20: each kind sends a reference packet, whose trailer is the CRC of what stands before it. -/
theorem sentPacketsCarryZeroResidue : Obligations.SentPacketsCarryZeroResidue := by
  intro s i total ht hc hi
  rcases hi with ⟨rfl, rfl⟩ | ⟨⟨code, rfl⟩, rfl⟩ | ⟨opcode, args, result, rfl, ha, rfl⟩
  · exact ⟨_, _, sendStatusResult s ht hc, rfl, refPacket_sound .status _ _ (by simp)⟩
  · exact ⟨_, _, exec_sendAlarm_eq ht hc code, rfl, refPacket_sound .alarm _ _ rfl⟩
  · exact ⟨_, _, sendEchoResult s opcode args result ht hc ha, rfl,
      refPacket_sound .echo _ _ (by rw [refEchoPayload_length]; omega)⟩

end Sys2Proof.Proofs.Telemetry
end

section
/-! What the sends do to the outbound side, said once: the packets that join the stream and the two fields of the instrument
state that count them. Then the dispatcher, runs of sends, and the time advance with its automatic Status. -/

namespace Sys2Proof.Proofs.Sends

open Sys2Proof.Machine Sys2Proof.Proofs.Engine Sys2Proof.Proofs.Telemetry

/-! ### Packets joining the stream -/

/-- From `s` to `t` the packets `ps` joined the outbound stream, `seq` counted them and `hb` those that are no alarm (rules
R200, R234); the power bit stayed, and stands in bit 6 of byte 4 of each of them (rule R222). -/
structure Emits (s t : State) (ps : List Packet) : Prop where
  outbound : t.link.outbound = s.link.outbound ++ ps
  seq : t.inst.seq = s.inst.seq + BitVec.ofNat 14 ps.length
  hb : t.inst.hb = (s.inst.hb != decide (heartbeats (ps.map Packet.kind) % 2 = 1))
  pw : t.inst.pw = s.inst.pw
  powerBits : ∀ p ∈ ps, (p.bytes.getD 4 0).getLsbD 6 = s.inst.pw
  outbuf : s.link.outbuf.length = statusTotal → t.link.outbuf.length = statusTotal

theorem decide_odd_add (a b : Nat) : decide ((a + b) % 2 = 1) = (decide (a % 2 = 1) != decide (b % 2 = 1)) := by
  rcases Nat.mod_two_eq_zero_or_one a with ha | ha <;> rcases Nat.mod_two_eq_zero_or_one b with hb | hb <;>
    simp [Nat.add_mod, ha, hb]

theorem heartbeats_append (ks ls : List PacketKind) : heartbeats (ks ++ ls) = heartbeats ks + heartbeats ls :=
  List.countP_append

/-- Nothing is sent where the outbound side and the counting fields stay. -/
theorem Emits.nil {s t : State} (hlink : t.link = s.link) (hseq : t.inst.seq = s.inst.seq) (hhb : t.inst.hb = s.inst.hb)
    (hpw : t.inst.pw = s.inst.pw) : Emits s t [] where
  outbound := by rw [hlink, List.append_nil]
  seq := by rw [hseq]; exact (BitVec.add_zero _).symm
  hb := by rw [hhb]; exact (Bool.bne_false _).symm
  pw := hpw
  powerBits := by simp
  outbuf := by rw [hlink]; exact id

theorem Emits.refl (s : State) : Emits s s [] := .nil rfl rfl rfl rfl

theorem Emits.trans {s t u : State} {ps qs : List Packet} (h : Emits s t ps) (k : Emits t u qs) : Emits s u (ps ++ qs) where
  outbound := by rw [k.outbound, h.outbound, List.append_assoc]
  seq := by rw [k.seq, h.seq, BitVec.add_assoc, ← BitVec.ofNat_add, List.length_append]
  hb := by rw [k.hb, h.hb, List.map_append, heartbeats_append, decide_odd_add, Bool.bne_assoc]
  pw := k.pw.trans h.pw
  powerBits := by
    intro p hp
    rcases List.mem_append.mp hp with hp | hp
    · exact h.powerBits p hp
    · exact (k.powerBits p hp).trans h.pw
  outbuf := fun hl => k.outbuf (h.outbuf hl)

/-- Steps before or after that send nothing. -/
theorem Emits.after_nil {s t u : State} {ps : List Packet} (h : Emits s t []) (k : Emits t u ps) : Emits s u ps := h.trans k

theorem Emits.then_nil {s t u : State} {ps : List Packet} (h : Emits s t ps) (k : Emits t u []) : Emits s u ps := by
  simpa using h.trans k

/-! ### The three sends -/

theorem flags_powerBit : ∀ (hb pw : Bool) (high : BitVec 3),
    ((BitVec.ofBool hb).setWidth 8 <<< 7 ||| (BitVec.ofBool pw).setWidth 8 <<< 6 ||| high.setWidth 8 : Byte).getLsbD 6 =
      pw := by decide

theorem sentPacket_powerBit (s : State) (apid : BitVec 11) (total : Nat) (payload : List Byte) :
    ((sentPacket s apid total payload).getD 4 0).getLsbD 6 = s.inst.pw :=
  flags_powerBit s.inst.hb s.inst.pw _

theorem sentState_outbuf_length {s : State} {kind : PacketKind} {bytes : List Byte} (hb : bytes.length ≤ statusTotal)
    (hl : s.link.outbuf.length = statusTotal) : (sentState s kind bytes).link.outbuf.length = statusTotal := by
  simp only [sentState_outbuf, List.length_append, List.length_drop]
  omega

/-- An alarm is sent without a toggle of the heartbeat (rule R234). -/
theorem sentState_emits {s : State} {bytes : List Byte} (hb : bytes.length ≤ statusTotal)
    (hp : (bytes.getD 4 0).getLsbD 6 = s.inst.pw) : Emits s (sentState s .alarm bytes) [⟨.alarm, bytes⟩] where
  outbound := rfl
  seq := rfl
  hb := (Bool.bne_false _).symm
  pw := rfl
  powerBits := by simpa using hp
  outbuf := sentState_outbuf_length hb

/-- A Status and an Echo are sent with one (rule R234). -/
theorem hbToggle_sentState_emits {s : State} {kind : PacketKind} {bytes : List Byte} (hk : kind ≠ .alarm)
    (hb : bytes.length ≤ statusTotal) (hp : (bytes.getD 4 0).getLsbD 6 = s.inst.pw) :
    Emits s (hbToggle (sentState s kind bytes)) [⟨kind, bytes⟩] where
  outbound := rfl
  seq := rfl
  hb := by simp [hbToggle, heartbeats, hk]
  pw := rfl
  powerBits := by simpa using hp
  outbuf := sentState_outbuf_length hb

theorem raiseAlarm_emits {s t : State} {code : AlarmCode} (h : raiseAlarm s code = .ok t) :
    ∃ p, Emits s t [p] ∧ p.kind = .alarm ∧ p.bytes[16]? = some code.code := by
  obtain ⟨-, rfl⟩ := raiseAlarm_ok h
  have hle : (alarmPayload code).length + 18 ≤ statusTotal := by simp [alarmPayload, statusTotal]
  exact ⟨_, sentState_emits (by rwa [sentPacket_length]) (sentPacket_powerBit ..), rfl, rfl⟩

theorem sendStatus_emits {s t : State} (h : sendStatus s = .ok t) : ∃ p, Emits s t [p] ∧ p.kind = .status := by
  obtain ⟨-, rfl⟩ := sendStatus_ok h
  exact ⟨_, hbToggle_sentState_emits (by decide) (by simp [statusPayload, statusTotal]) (sentPacket_powerBit ..), rfl⟩

theorem sendEcho_emits {s t : State} {opcode : Byte} {args : List Byte} {result : Byte}
    (h : sendEcho s opcode args result = .ok t) : ∃ p, Emits s t [p] ∧ p.kind = .echo := by
  obtain ⟨-, ha, rfl⟩ := sendEcho_ok h
  have hle : (echoPayload opcode args result).length + 18 ≤ statusTotal := echoTotal_eq opcode args result ▸ echoTotal_le ha
  exact ⟨_, hbToggle_sentState_emits (by decide) (by rwa [sentPacket_length]) (sentPacket_powerBit ..), rfl⟩

/-! ### The dispatcher (rule R220) -/

theorem echoRecord_emits {s t : State} {j : Nat} (h : echoRecord s j = .ok t) : ∃ p, Emits s t [p] ∧ p.kind = .echo := by
  simp only [echoRecord, bind_eq_ok] at h
  obtain ⟨r, -, opcode, -, args, -, h⟩ := h
  exact sendEcho_emits h

theorem echoRecords_emits {n j : Nat} {s t : State} (h : echoRecords n j s = .ok t) :
    ∃ ps, Emits s t ps ∧ ps.length = n ∧ ∀ p ∈ ps, p.kind = .echo := by
  induction n generalizing j s with
  | zero =>
    cases h
    exact ⟨[], .refl _, rfl, by simp⟩
  | succ n ih =>
    simp only [echoRecords, bind_eq_ok] at h
    obtain ⟨u, hu, h⟩ := h
    obtain ⟨p, hp, hk⟩ := echoRecord_emits hu
    obtain ⟨ps, hps, hlen, hks⟩ := ih h
    exact ⟨p :: ps, hp.trans hps, by simp [hlen], by simpa [hk] using hks⟩

theorem dispatch_emits {s t : State} (h : dispatch s = .ok t) :
    ∃ ps, Emits s t ps ∧ ps.length = s.rx.cmdK ∧ ∀ p ∈ ps, p.kind = .echo := echoRecords_emits h

theorem heartbeats_of_echoes {ps : List Packet} (h : ∀ p ∈ ps, p.kind = .echo) :
    heartbeats (ps.map Packet.kind) = ps.length := by
  rw [heartbeats, List.countP_map, List.countP_eq_length]
  intro p hp
  simp [h p hp]

/-- Beside the two fields that count packets the sends leave the instrument state as it is. -/
theorem inst_of_sameBlock {s t : State} (h : SameBlock s t) :
    t.inst = { s.inst with seq := t.inst.seq, hb := t.inst.hb } := by
  change t.inst =
    ⟨t.inst.hb, s.inst.pw, t.inst.seq, s.inst.met, s.inst.sic, s.inst.pendingTime, s.inst.timeReceived⟩
  rw [← h.pw, ← h.met, ← h.sic, ← h.pendingTime, ← h.timeReceived]

theorem exec_dispatch (s : State) : exec .dispatch s = toOutcome (dispatch s) := rfl

/-- Settles O24: the induction over the records counts one Echo for each. -/
theorem dispatchSendsOneEchoPerRecord : Obligations.DispatchSendsOneEchoPerRecord := by
  intro s t h
  have hd := toOutcome_eq_next.mp h
  have hsame := dispatch_same hd
  obtain ⟨ps, hemits, hlen, hkind⟩ := dispatch_emits hd
  refine ⟨⟨ps, hemits.outbound, hlen, hkind⟩, ?_, hsame.rx, hsame.cfg, hsame.crcTable, hsame.inbound, hsame.returned,
    hsame.probe, hsame.freeCount⟩
  rw [inst_of_sameBlock hsame, hemits.seq, hemits.hb, heartbeats_of_echoes hkind, hlen, seq_add_ofNat]

theorem afterEcho_rx (s : State) (opcode : Byte) (args : List Byte) (result : Byte) :
    (afterEcho s opcode args result).rx = s.rx := rfl

theorem ready_canSend {s : State} (h : s.Ready) : s.CanSend := by
  simp [State.CanSend, h.1]

theorem ready_afterEcho {s : State} (h : s.Ready) (opcode : Byte) (args : List Byte) (result : Byte) :
    (afterEcho s opcode args result).Ready := ⟨drainsAfter_of_none h.1, h.2⟩

/-- The bytes of a record lie below the scratch index `bound`, and it has no more than 10 arguments (rules R61, R220). -/
def RecordBelow (bound : Nat) (r : CmdRecord) : Prop := r.off.toNat + r.cnt.toNat + 1 ≤ bound ∧ r.cnt.toNat ≤ maxArgs

theorem RecordBelow.mono {bound bound' : Nat} {r : CmdRecord} (h : RecordBelow bound r) (hle : bound ≤ bound') :
    RecordBelow bound' r := ⟨h.1.trans hle, h.2⟩

theorem scratchBytes_length (m : Memory) (i n : Nat) : (scratchBytes m i n).length = n := by simp [scratchBytes]

theorem echoRecord_eq {s : State} (hr : s.Ready) {j : Nat} (hj : j < s.rx.recs.length)
    (hok : RecordBelow s.cfg.scratchSize s.rx.recs[j]) :
    echoRecord s j = .ok (afterEcho s (Memory.read s.rx.scratch s.rx.recs[j].off.toNat)
      (scratchBytes s.rx.scratch (s.rx.recs[j].off.toNat + 1) s.rx.recs[j].cnt.toNat) 0) := by
  obtain ⟨hin, hcnt⟩ := hok
  have hargs := scratchReads_eq (s := s) s.rx.recs[j].cnt.toNat (s.rx.recs[j].off.toNat + 1) (by omega)
  rw [echoRecord, recordRead_eq hj, ok_bind, scratchRead_eq (by omega), ok_bind, hargs, ok_bind,
    sendEcho_eq_afterEcho hr.2 (ready_canSend hr) _ ((scratchBytes_length ..).trans_le hcnt)]

theorem echoRecords_eq {n j : Nat} {s : State} (hr : s.Ready) (hj : j + n ≤ s.rx.recs.length)
    (hok : ∀ r ∈ (s.rx.recs.drop j).take n, RecordBelow s.cfg.scratchSize r) :
    echoRecords n j s = .ok (afterEchoes s.rx.scratch ((s.rx.recs.drop j).take n) s) := by
  induction n generalizing j s with
  | zero => rfl
  | succ n ih =>
    have hlt : j < s.rx.recs.length := by omega
    rw [List.drop_eq_getElem_cons hlt, List.take_succ_cons] at hok ⊢
    obtain ⟨hfirst, hrest⟩ := List.forall_mem_cons.mp hok
    rw [echoRecords, echoRecord_eq hr hlt hfirst, ok_bind]
    exact ih (ready_afterEcho hr ..) (by rw [afterEcho_rx]; omega) hrest

theorem dispatch_eq {s : State} (hr : s.Ready) (hk : s.rx.cmdK ≤ s.rx.recs.length)
    (hok : ∀ r ∈ s.rx.recs.take s.rx.cmdK, RecordBelow s.cfg.scratchSize r) :
    dispatch s = .ok (afterEchoes s.rx.scratch (s.rx.recs.take s.rx.cmdK) s) :=
  echoRecords_eq (j := 0) hr (by omega) hok

/-- Settles O23: the induction over the records, each echoed from the scratch buffer as it stands. -/
theorem dispatchResult : Obligations.DispatchResult := by
  intro s hr hk hok
  rw [exec_dispatch, dispatch_eq hr hk hok, toOutcome_ok]

/-- Settles O25: the read of the opcode byte is the first that the record asks for. -/
theorem outOfBoundsRecordFaults : Obligations.OutOfBoundsRecordFaults := by
  intro s r rs hrecs hk hoff
  obtain ⟨k, hk⟩ := Nat.exists_eq_add_of_lt hk
  have hread : recordRead s 0 = .ok r := by simp [recordRead, hrecs]
  have hscratch : scratchRead s r.off.toNat = .error .scratchOutOfBounds := if_neg (Nat.not_lt.mpr hoff)
  have hfirst : echoRecord s 0 = .error .scratchOutOfBounds := by
    rw [echoRecord, hread, ok_bind, hscratch, error_bind]
  rw [exec_dispatch, dispatch, hk, echoRecords, hfirst, error_bind, toOutcome_error]

/-! ### Runs of sends -/

theorem execAll_cons {i : Instr} {is : List Instr} {s t : State} (h : exec i s = .next t) :
    execAll (i :: is) s = execAll is t := by
  simp [execAll, h]

theorem execAll_append {is js : List Instr} {s t : State} (h : execAll is s = .next t) :
    execAll (is ++ js) s = execAll js t := by
  induction is generalizing s with
  | nil =>
    cases h
    rfl
  | cons i is ih =>
    cases hi : exec i s with
    | next u =>
      rw [execAll_cons hi] at h
      rw [List.cons_append, execAll_cons hi, ih h]
    | fault f => simp [execAll, hi] at h
    | refused r => simp [execAll, hi] at h

/-- With a draining transport each of the three sends goes on, with one packet of its kind. -/
theorem exec_send {i : Instr} {k : PacketKind} {s : State} (hr : s.Ready) (hk : sentKind i = some k)
    (hwf : i.WellFormed = true) : ∃ t p, exec i s = .next t ∧ SameBlock s t ∧ Emits s t [p] ∧ p.kind = k := by
  have hc := ready_canSend hr
  cases i with
  | sendStatus =>
    cases hk
    have h := sendStatus_eq_afterStatus hr.2 hc
    obtain ⟨p, hp, hkind⟩ := sendStatus_emits h
    exact ⟨_, p, sendStatusResult s hr.2 hc, sendStatus_same h, hp, hkind⟩
  | sendEcho opcode args result =>
    cases hk
    have ha : args.length ≤ maxArgs := of_decide_eq_true hwf
    have h := sendEcho_eq_afterEcho hr.2 hc opcode ha result
    obtain ⟨p, hp, hkind⟩ := sendEcho_emits h
    exact ⟨_, p, sendEchoResult s opcode args result hr.2 hc ha, sendEcho_same h, hp, hkind⟩
  | sendAlarm code =>
    cases hk
    have h := raiseAlarm_eq_afterAlarm hr.2 hc code
    obtain ⟨p, hp, hkind, -⟩ := raiseAlarm_emits h
    exact ⟨_, p, exec_sendAlarm_eq hr.2 hc code, raiseAlarm_same h, hp, hkind⟩
  | _ => cases hk

theorem ready_of_sameBlock {s t : State} (hr : s.Ready) (h : SameBlock s t) : t.Ready :=
  ⟨h.drains hr.1, h.crcTable.trans hr.2⟩

theorem execAll_sends {is : List Instr} {s : State} (hr : s.Ready)
    (his : ∀ i ∈ is, (sentKind i).isSome = true ∧ i.WellFormed = true) :
    ∃ t ps, execAll is s = .next t ∧ SameBlock s t ∧ Emits s t ps ∧ ps.map Packet.kind = is.filterMap sentKind ∧
      ps.length = is.length := by
  induction is generalizing s with
  | nil => exact ⟨s, [], rfl, .refl s, .refl s, rfl, rfl⟩
  | cons i is ih =>
    obtain ⟨⟨hsome, hwf⟩, hrest⟩ := List.forall_mem_cons.mp his
    obtain ⟨k, hk⟩ := Option.isSome_iff_exists.mp hsome
    obtain ⟨u, p, hu, hsame, hemits, hkind⟩ := exec_send hr hk hwf
    obtain ⟨t, ps, ht, hsame', hemits', hkinds, hlen⟩ := ih (ready_of_sameBlock hr hsame) hrest
    refine ⟨t, p :: ps, (execAll_cons hu).trans ht, hsame.trans hsame', hemits.trans hemits', ?_, by simp [hlen]⟩
    rw [List.map_cons, List.filterMap_cons_some hk, hkinds, hkind]

/-- Settles O21, by the induction over the list of sends; 16384 is 0 in 14 bits. -/
theorem sequenceCountsTheSends : Obligations.SequenceCountsTheSends := by
  intro is s hr his
  obtain ⟨t, ps, ht, hsame, hemits, hkinds, hlen⟩ := execAll_sends hr his
  refine ⟨t, ps, ht, hemits.outbound, hkinds, ?_, ?_, hsame.rx, hsame.cfg, hsame.crcTable, hsame.inbound, hsame.returned,
    hsame.probe, hsame.freeCount, (hsame.drains hr.1).trans hr.1.symm⟩
  · rw [inst_of_sameBlock hsame, hemits.seq, hemits.hb, hkinds, hlen, seq_add_ofNat]
  · intro h16384
    rw [hemits.seq, hlen, h16384]
    exact BitVec.add_zero _

/-! ### The time advance (rules R204, R205) -/

theorem ofNat_succ_toNat (v : Long) : BitVec.ofNat 32 (v.toNat + 1) = v + 1 := by
  rw [BitVec.ofNat_add, BitVec.ofNat_toNat, BitVec.setWidth_eq]
  rfl

/-- The model counts `met` and then `sic`, as `timeCounted` does at once. -/
theorem timeCounted_eq (s : State) :
    timeCounted s = s.withInst { metNext s.inst with sic := (metNext s.inst).sic + 1 } := by
  simp only [timeCounted, ofNat_succ_toNat, metNext, State.withInst]
  cases s.inst.timeReceived <;> simp

theorem metAdvance_eq (s : State) :
    metAdvance s =
      if statusDue s.cfg (timeCounted s).inst then do
        let v ← sendStatus (timeCounted s)
        .ok (v.withInst { v.inst with sic := 0 })
      else .ok (timeCounted s) := by
  rw [timeCounted_eq]
  rfl

theorem statusDue_iff {cfg : Config} {inst : Instrument} :
    statusDue cfg inst = true ↔ cfg.statusInterval ≠ 0 ∧ inst.sic = cfg.statusInterval := by
  simp [statusDue]

theorem metAdvance_of_not_due {s : State} (h : ¬ (s.cfg.statusInterval ≠ 0 ∧ (timeCounted s).inst.sic = s.cfg.statusInterval)) :
    metAdvance s = .ok (timeCounted s) := by
  rw [metAdvance_eq, if_neg (statusDue_iff.not.mpr h)]

theorem metAdvance_of_due {s : State} (h : s.cfg.statusInterval ≠ 0 ∧ (timeCounted s).inst.sic = s.cfg.statusInterval)
    (ht : s.crcTable = builtCrcTable) (hc : s.CanSend) :
    metAdvance s =
      .ok { afterStatus (timeCounted s) with inst := { (afterStatus (timeCounted s)).inst with sic := 0 } } := by
  have hsend : sendStatus (timeCounted s) = .ok (afterStatus (timeCounted s)) := sendStatus_eq_afterStatus ht hc
  rw [metAdvance_eq, if_pos (statusDue_iff.mpr h), hsend, ok_bind]
  rfl

theorem exec_metAdvance (s : State) : exec .metAdvance s = toOutcome (metAdvance s) := rfl

/-- Settles O13: no Status due, a Status sent, a Status held at its flush. -/
theorem metAdvanceResult : Obligations.MetAdvanceResult := by
  intro s u due
  refine ⟨fun hnot => ?_, fun hdue ht hc => ?_, fun hdue hc => ?_⟩
  · rw [exec_metAdvance, metAdvance_of_not_due hnot, toOutcome_ok]
  · rw [exec_metAdvance, metAdvance_of_due hdue ht hc, toOutcome_ok]
  · have hheld : sendStatus (timeCounted s) = .error .heldInWaitDrained := sendStatus_held hc
    rw [exec_metAdvance, metAdvance_eq, if_pos (statusDue_iff.mpr hdue), hheld, error_bind, toOutcome_error]

theorem timeCounted_sic (s : State) : (timeCounted s).inst.sic = s.inst.sic + 1 := ofNat_succ_toNat _

/-- Time advances before the next Status is due: `sic` counts them and nothing is sent. -/
theorem execAll_metAdvance_below {k : Nat} {s : State}
    (h : s.cfg.statusInterval = 0 ∨ s.inst.sic.toNat + k < s.cfg.statusInterval.toNat) :
    ∃ t, execAll (List.replicate k .metAdvance) s = .next t ∧ t.link = s.link ∧ t.cfg = s.cfg ∧
      t.crcTable = s.crcTable ∧ t.inst.sic = s.inst.sic + BitVec.ofNat 32 k := by
  induction k generalizing s with
  | zero => exact ⟨s, rfl, rfl, rfl, rfl, (BitVec.add_zero _).symm⟩
  | succ k ih =>
    have hsic := timeCounted_sic s
    have hnot : ¬ (s.cfg.statusInterval ≠ 0 ∧ (timeCounted s).inst.sic = s.cfg.statusInterval) := by
      rintro ⟨hne, heq⟩
      have hlt := h.resolve_left hne
      bv_omega
    have hrest : (timeCounted s).cfg.statusInterval = 0 ∨
        (timeCounted s).inst.sic.toNat + k < (timeCounted s).cfg.statusInterval.toNat := by
      refine h.imp id fun hlt => ?_
      have hcfg : (timeCounted s).cfg = s.cfg := rfl
      rw [hcfg, hsic]
      bv_omega
    have hstep : exec .metAdvance s = .next (timeCounted s) := (metAdvanceResult s).1 hnot
    obtain ⟨t, ht, hlink, hcfg, htable, hcount⟩ := ih hrest
    refine ⟨t, (execAll_cons hstep).trans ht, hlink, hcfg, htable, ?_⟩
    rw [hcount, hsic, BitVec.add_assoc, Nat.add_comm k 1, BitVec.ofNat_add]
    rfl

/-- Settles O14: the first N - 1 advances only count, and the N-th finds the Status due. -/
theorem oneStatusPerInterval : Obligations.OneStatusPerInterval := by
  intro s hr
  refine ⟨fun hne hzero => ?_, fun hzero k => ?_⟩
  · have hpos : 0 < s.cfg.statusInterval.toNat := by bv_omega
    obtain ⟨n, hn⟩ := Nat.exists_eq_add_of_lt hpos
    rw [Nat.zero_add] at hn
    obtain ⟨u, hu, hlink, hcfg, htable, hcount⟩ := execAll_metAdvance_below (k := n) (s := s) (.inr (by simp [hzero, hn]))
    have hdue : u.cfg.statusInterval ≠ 0 ∧ (timeCounted u).inst.sic = u.cfg.statusInterval := by
      rw [hcfg, timeCounted_sic, hcount, hzero]
      exact ⟨hne, by bv_omega⟩
    have hc : u.CanSend := by simp [State.CanSend, hlink, hr.1]
    have hlast := (metAdvanceResult u).2.1 hdue (htable.trans hr.2) hc
    have hrun := (execAll_append hu).trans (execAll_cons (is := []) hlast)
    rw [← List.replicate_succ', ← hn] at hrun
    exact ⟨_, _, hrun, by rw [← hlink]; rfl, rfl, rfl⟩
  · obtain ⟨t, ht, hlink, -⟩ := execAll_metAdvance_below (k := k) (s := s) (.inl hzero)
    exact ⟨t, ht, hlink⟩

end Sys2Proof.Proofs.Sends
end

section
/-! The frame receiver up to TIME (41_frame_receiver.md sections 1 to 4), byte by byte: a step is the byte taken into `pos` and
`crc`, the state rule on the state that this leaves, and the end of the step. Each rule is said once, an equation per case. -/

namespace Sys2Proof.Proofs.FrameBytes

open Sys2Proof.Machine Sys2Proof.Proofs.Receiver Sys2Proof.Proofs.Telemetry Sys2Proof.Proofs.Sends

/-! ### Fields assembled from bytes (rules R62, R63) -/

/-- A byte put below a shifted field adds to it. -/
theorem shiftLeft_or_byte {n : Nat} (v : BitVec n) (b : Byte) : v <<< 8 ||| b.setWidth n = v <<< 8 + b.setWidth n := by
  refine (BitVec.add_eq_or_of_and_eq_zero _ _ ?_).symm
  ext i hi
  by_cases h8 : i < 8
  · simp [h8]
  · simp [BitVec.getLsbD_of_ge b i (by omega)]

/-- The window as a number (rule R10). -/
theorem window_toNat (rx : Receiver) (b : Byte) : (window rx b).toNat = windowNat rx b := by
  have hl := rx.last.isLt
  have hb := b.isLt
  rw [window, be16, shiftLeft_or_byte]
  simp only [BitVec.toNat_add, BitVec.toNat_shiftLeft, BitVec.toNat_setWidth, Nat.shiftLeft_eq, windowNat]
  omega

theorem shiftIn_toNat (v : Long) (b : Byte) : (shiftIn v b).toNat = (v.toNat * 256 + b.toNat) % 4294967296 := by
  have hb := b.isLt
  rw [shiftIn, shiftLeft_or_byte]
  simp only [BitVec.toNat_add, BitVec.toNat_shiftLeft, BitVec.toNat_setWidth, Nat.shiftLeft_eq]
  omega

theorem window_eq_ofNat (rx : Receiver) (b : Byte) : window rx b = BitVec.ofNat 16 (windowNat rx b) := by
  rw [← window_toNat, BitVec.ofNat_toNat, BitVec.setWidth_eq]

theorem shiftIn_eq_ofNat (v : Long) (b : Byte) :
    shiftIn v b = BitVec.ofNat 32 ((v.toNat * 256 + b.toNat) % 4294967296) := by
  rw [← shiftIn_toNat, BitVec.ofNat_toNat, BitVec.setWidth_eq]

/-! ### IDLE (rule R143) -/

theorem exec_rxByteIdle {s : State} (b : Byte) (h : s.rx.rxState = .idle) :
    exec (.rxByteIdle b) s = toOutcome (idleByte s b) := inRxState_eq h _

theorem syncFound_iff (v : Long) (b : Byte) :
    syncFound (shiftIn v b) = true ↔ (v.toNat * 256 + b.toNat) % 4294967296 = 0xFEFA30C8 := by
  rw [syncFound, decide_eq_true_eq, ← BitVec.toNat_inj, shiftIn_toNat]
  rfl

theorem idleByte_shifts {s : State} {b : Byte} (h : ¬ syncFound (shiftIn s.rx.syncWin b) = true) :
    idleByte s b = .ok (s.withRx { s.rx with syncWin := shiftIn s.rx.syncWin b }) := if_neg h

/-- The receiver right after a sync: cleared, in LENGTH at p = 4. -/
def rxSynced (cfg : Config) : Receiver := { rxCleared cfg with pos := 4, rxState := .length }

theorem idleByte_syncs {s : State} {b : Byte} (h : syncFound (shiftIn s.rx.syncWin b) = true) :
    idleByte s b = metAdvance (s.withRx (rxSynced s.cfg)) := if_pos h

/-- Settles O27: the comparison with the marker, read as numbers. -/
theorem idleByteWithoutSync : Obligations.IdleByteWithoutSync := by
  intro s b hst win hwin
  rw [exec_rxByteIdle b hst, idleByte_shifts ((syncFound_iff ..).not.mpr hwin), toOutcome_ok, shiftIn_eq_ofNat]
  rfl

theorem metAdvance_eq_afterTimeAdvance {s : State} (ht : s.crcTable = builtCrcTable)
    (hc : s.cfg.statusInterval = 0 ∨ s.CanSend) : metAdvance s = .ok (afterTimeAdvance s) := by
  by_cases hdue : s.cfg.statusInterval ≠ 0 ∧ (timeCounted s).inst.sic = s.cfg.statusInterval
  · rw [metAdvance_of_due hdue ht (hc.resolve_left hdue.1)]
    exact congrArg _ (if_pos hdue).symm
  · rw [metAdvance_of_not_due hdue]
    exact congrArg _ (if_neg hdue).symm

/-- Settles O28: the cleared frame, then the time advance. -/
theorem idleByteFindsSync : Obligations.IdleByteFindsSync := by
  intro s b hst ht hc hwin
  have hadvance := metAdvance_eq_afterTimeAdvance (s := s.withRx (rxSynced s.cfg)) ht hc
  rw [exec_rxByteIdle b hst, idleByte_syncs ((syncFound_iff ..).mpr hwin), hadvance, toOutcome_ok]
  rfl

/-! ### The step of the sync-locked states (rules R141, R142) -/

/-- The state rule of each sync-locked state (rule R141). IDLE has none, and no step looks at the one that stands for it. -/
def stateRule (st : RxState) : State → Byte → Word → Res After :=
  match st with
  | .idle => lengthRule
  | .length => lengthRule
  | .timeStart => timeStartRule
  | .time => timeRule
  | .cmdStart => cmdStartRule
  | .cmd => cmdRule

theorem exec_rxByte_locked {s : State} {st : RxState} (b : Byte) (hst : s.rx.rxState = st) (hne : st ≠ .idle) :
    exec (rxByteInstr st b) s = toOutcome (lockedByte (stateRule st) s b) := by
  cases st with
  | idle => exact absurd rfl hne
  | length | timeStart | time | cmdStart | cmd => exact inRxState_eq hst _

/-- The receiver when the byte has been taken into `pos` and `crc` and the state rule has not run. -/
def byteTaken (rx : Receiver) (b : Byte) : Receiver := { rx with pos := rx.pos + 1, crc := refCrcByte rx.crc b }

/-- The state that a state rule runs on. -/
def taken (s : State) (b : Byte) : State := s.withRx (byteTaken s.rx b)

theorem countByte_eq_taken {s : State} (b : Byte) (ht : s.crcTable = builtCrcTable) : countByte s b = taken s b := by
  rw [countByte, ht, crcUpdate_eq_refCrcByte]
  rfl

theorem overflowed_eq_true {cfg : Config} {rx : Receiver} : overflowed cfg rx = true ↔ cfg.maxPacketSize < rx.pos := by
  simp [overflowed]

theorem lockedByte_of_no_overflow {s : State} (rule : State → Byte → Word → Res After) (b : Byte)
    (h : s.rx.pos + 1 ≤ s.cfg.maxPacketSize) :
    lockedByte rule s b = (rule (countByte s b) b (window s.rx b) >>= finishByte b) := by
  have hov : overflowed (countByte s b).cfg (countByte s b).rx = false := overflowed_eq_false.mpr h
  simp [lockedByte, hov]

theorem lockedByte_of_overflow {s : State} (rule : State → Byte → Word → Res After) (b : Byte)
    (h : s.cfg.maxPacketSize < s.rx.pos + 1) :
    lockedByte rule s b = (raiseAlarm (countByte s b) .itfLength >>= fun u => .ok (rxReset u)) := by
  have hov : overflowed (countByte s b).cfg (countByte s b).rx = true := overflowed_eq_true.mpr h
  simp [lockedByte, hov]

theorem raiseAlarm_taken {s : State} (b : Byte) (ht : s.crcTable = builtCrcTable) (hc : s.CanSend) (code : AlarmCode) :
    raiseAlarm (taken s b) code = .ok (afterAlarm (taken s b) code.code) :=
  raiseAlarm_eq_afterAlarm (s := taken s b) ht hc code

theorem rxReset_afterAlarm_taken (s : State) (b : Byte) (code : Byte) :
    rxReset (afterAlarm (taken s b) code) = afterAbort s code := rfl

/-- Settles O32: the guard comes before the state rule, whatever the state. -/
theorem overflowGuardAborts : Obligations.OverflowGuardAborts := by
  intro s b hne ht hc hov
  rw [exec_rxByte_locked b rfl hne, lockedByte_of_overflow _ b hov, countByte_eq_taken b ht, raiseAlarm_taken b ht hc,
    ok_bind, toOutcome_ok, rxReset_afterAlarm_taken]
  rfl

/-- The state rule aborts: that is the end of the step. -/
theorem exec_of_rule_aborts {s u : State} {st : RxState} {b : Byte} (hst : s.rx.rxState = st) (hne : st ≠ .idle)
    (ht : s.crcTable = builtCrcTable) (hov : s.rx.pos + 1 ≤ s.cfg.maxPacketSize)
    (hrule : stateRule st (taken s b) b (window s.rx b) = .ok (.aborted u)) : exec (rxByteInstr st b) s = .next u := by
  rw [exec_rxByte_locked b hst hne, lockedByte_of_no_overflow _ b hov, countByte_eq_taken b ht, hrule]
  rfl

/-- The state rule goes on and the frame does not end: the byte is remembered in `last`. -/
theorem exec_of_rule_goesOn {s u : State} {st : RxState} {b : Byte} (hst : s.rx.rxState = st) (hne : st ≠ .idle)
    (ht : s.crcTable = builtCrcTable) (hov : s.rx.pos + 1 ≤ s.cfg.maxPacketSize)
    (hrule : stateRule st (taken s b) b (window s.rx b) = .ok (.goesOn u)) (hend : atFrameEnd u.rx = false) :
    exec (rxByteInstr st b) s = .next (u.withRx { u.rx with last := b }) := by
  rw [exec_rxByte_locked b hst hne, lockedByte_of_no_overflow _ b hov, countByte_eq_taken b ht, hrule, ok_bind,
    finishByte_goesOn b hend, toOutcome_ok]

/-- In mid-frame a rule that leaves `pos`, `len_ok` and `frame_end` alone does not end the frame. -/
theorem exec_of_rule_midFrame {s u : State} {st : RxState} {b : Byte} (hst : s.rx.rxState = st) (hne : st ≠ .idle)
    (ht : s.crcTable = builtCrcTable) (hm : midFrame s)
    (hrule : stateRule st (taken s b) b (window s.rx b) = .ok (.goesOn u))
    (hkept : u.rx.pos = s.rx.pos + 1 ∧ u.rx.lenOk = s.rx.lenOk ∧ u.rx.frameEnd = s.rx.frameEnd) :
    exec (rxByteInstr st b) s = .next (u.withRx { u.rx with last := b }) := by
  obtain ⟨hpos, hlen, hend⟩ := hkept
  refine exec_of_rule_goesOn hst hne ht hm.1 hrule (atFrameEnd_eq_false.mpr ?_)
  rw [hpos, hlen, hend]
  exact hm.2

/-! ### What the rules share -/

theorem abortWith_taken {s : State} (b : Byte) (ht : s.crcTable = builtCrcTable) (hc : s.CanSend) (code : AlarmCode) :
    abortWith (taken s b) code = .ok (.aborted (afterAbort s code.code)) := by
  rw [abortWith, raiseAlarm_taken b ht hc, ok_bind, rxReset_afterAlarm_taken]

theorem alarmToCmdStart_taken {s : State} (b : Byte) (ht : s.crcTable = builtCrcTable) (hc : s.CanSend)
    (code : AlarmCode) :
    alarmToCmdStart (taken s b) code = .ok (.goesOn (toCmdStart (afterAlarm (taken s b) code.code))) := by
  rw [alarmToCmdStart, raiseAlarm_taken b ht hc, ok_bind]

/-- A command begins below the count limit (rule R154). -/
theorem beginCommand_eq {s : State} (c0 : Word) (h : s.rx.cmdK < s.cfg.maxCmds) :
    beginCommand s c0 = .ok (.goesOn (s.withRx { s.rx with
      cmdC := c0, cmdStartWp := s.rx.wp, cmdLen := 0, cmdPad := false, cmdEnd := 0, rxState := .cmd, idleCnt := 0 })) :=
  if_neg (Nat.not_le.mpr h)

theorem beginCommand_at_limit {s : State} (c0 : Word) (h : s.cfg.maxCmds ≤ s.rx.cmdK) :
    beginCommand s c0 = abortWith s .itfLength := if_pos h

theorem apidOf_toNat (h : Word) : (apidOf h).toNat = h.toNat % 2048 := by
  simp [apidOf]

theorem knownApid_iff {cfg : Config} {h : Word} : knownApid cfg h = true ↔ apidKnown cfg h.toNat := by
  simp [knownApid, apidKnown, ← BitVec.toNat_inj, apidOf_toNat]

theorem headerAlarm_code (cfg : Config) (h : Word) :
    (headerAlarm cfg h).code = if apidKnown cfg h.toNat then 3 else 4 := by
  rw [headerAlarm, apply_ite AlarmCode.code]
  simp only [knownApid_iff]
  rfl

/-! ### LENGTH (rule R145) -/

theorem lengthFormat_toNat (w : Word) : (lengthFormat w).toNat = w.toNat / 8192 := by
  simp only [lengthFormat, BitVec.extractLsb'_toNat, Nat.shiftRight_eq_div_pow]
  omega

theorem frameLength_toNat (w : Word) : (frameLength w).toNat = w.toNat % 8192 := by
  simp [frameLength]

theorem lengthFormat_eq_zero {w : Word} : lengthFormat w = 0 ↔ w.toNat < 8192 := by
  rw [← BitVec.toNat_inj, lengthFormat_toNat]
  simp [Nat.div_eq_zero_iff]

theorem frameLengthBad_iff {cfg : Config} {w : Word} (h : w.toNat < 8192) :
    frameLengthBad cfg (frameLength w) = true ↔ w.toNat < cfg.itfLenMin ∨ cfg.itfLenMax < w.toNat := by
  simp [frameLengthBad, frameLength_toNat, Nat.mod_eq_of_lt h]

/-- `frame_end` for an accepted length field. -/
theorem frameEnd_eq {w : Word} (h : w.toNat < 8192) :
    6 + (frameLength w).setWidth 16 = BitVec.ofNat 16 (6 + w.toNat) := by
  apply BitVec.eq_of_toNat_eq
  have h6 : (6 : Word).toNat = 6 := rfl
  simp only [BitVec.toNat_add, BitVec.toNat_setWidth, frameLength_toNat, BitVec.toNat_ofNat, h6]
  omega

/-- The receiver with an accepted length field `w` (rule R145). -/
def lengthAccepted (rx : Receiver) (w : Word) : Receiver :=
  { rx with frameEnd := 6 + (frameLength w).setWidth 16, lenOk := true, rxState := .timeStart }

theorem lengthRule_accepts {s : State} (b : Byte) {w : Word} (hp : s.rx.pos = 6) (hf : lengthFormat w = 0)
    (hl : ¬ frameLengthBad s.cfg (frameLength w) = true) :
    lengthRule s b w = .ok (.goesOn (s.withRx (lengthAccepted s.rx w))) := by
  rw [lengthRule, if_pos hp, if_neg (not_not.mpr hf), if_neg hl]
  rfl

theorem lengthRule_format {s : State} (b : Byte) {w : Word} (hp : s.rx.pos = 6) (hf : lengthFormat w ≠ 0) :
    lengthRule s b w = abortWith s .ccsdsFormat := by
  rw [lengthRule, if_pos hp, if_pos hf]

theorem lengthRule_length {s : State} (b : Byte) {w : Word} (hp : s.rx.pos = 6) (hf : lengthFormat w = 0)
    (hl : frameLengthBad s.cfg (frameLength w) = true) : lengthRule s b w = abortWith s .itfLength := by
  rw [lengthRule, if_pos hp, if_neg (not_not.mpr hf), if_pos hl]

/-- Settles O30: the accepted length is at least 1, so the frame does not end on its own length field. -/
theorem lengthFieldAccepted : Obligations.LengthFieldAccepted := by
  intro s b hst ht hlegal hmax hpos lf hlt hmin hle
  obtain ⟨-, -, -, -, -, hone, -⟩ := hlegal
  have hw : (window s.rx b).toNat = lf := window_toNat ..
  have hpos6 : (taken s b).rx.pos = 6 := congrArg (· + 1) hpos
  have hok : ¬ frameLengthBad s.cfg (frameLength (window s.rx b)) = true := by
    rw [frameLengthBad_iff (hw ▸ hlt), hw]
    omega
  have hfe : 6 + (frameLength (window s.rx b)).setWidth 16 = BitVec.ofNat 16 (6 + lf) := by
    rw [frameEnd_eq (hw ▸ hlt), hw]
  have hrule := lengthRule_accepts b hpos6 (lengthFormat_eq_zero.mpr (hw ▸ hlt)) hok
  have hend : atFrameEnd (lengthAccepted (taken s b).rx (window s.rx b)) = false := by
    rw [atFrameEnd_eq_false]
    rintro ⟨-, heq⟩
    have heq' : (taken s b).rx.pos = (6 + (frameLength (window s.rx b)).setWidth 16).toNat := heq
    rw [hfe, hpos6, BitVec.toNat_ofNat] at heq'
    omega
  refine (exec_of_rule_goesOn hst (by decide) ht (by omega) hrule hend).trans ?_
  rw [← hfe]
  rfl

/-- Settles O31: the format field is looked at first. -/
theorem lengthFieldRejected : Obligations.LengthFieldRejected := by
  intro s b hst ht hc hmax hpos lf
  have hw : (window s.rx b).toNat = lf := window_toNat ..
  have hpos6 : (taken s b).rx.pos = 6 := congrArg (· + 1) hpos
  refine ⟨fun hformat => ?_, fun hlt hbad => ?_⟩
  · have hf : lengthFormat (window s.rx b) ≠ 0 := by
      rw [ne_eq, lengthFormat_eq_zero]
      omega
    exact exec_of_rule_aborts hst (by decide) ht (by omega)
      ((lengthRule_format b hpos6 hf).trans (abortWith_taken b ht hc _))
  · have hl : frameLengthBad s.cfg (frameLength (window s.rx b)) = true := by
      rw [frameLengthBad_iff (hw ▸ hlt), hw]
      exact hbad
    exact exec_of_rule_aborts hst (by decide) ht (by omega)
      ((lengthRule_length b hpos6 (lengthFormat_eq_zero.mpr (hw ▸ hlt)) hl).trans (abortWith_taken b ht hc _))

/-! ### TIME_START (rules R146, R147) -/

theorem timeStartRule_at_8 {s : State} (b : Byte) (w : Word) (hp : s.rx.pos = 8) :
    timeStartRule s b w = .ok (.goesOn (s.withRx { s.rx with subHdr := w })) := if_pos hp

theorem timeStartRule_at_10 {s : State} (b : Byte) (w : Word) (hp : s.rx.pos = 10) :
    timeStartRule s b w = firstHeader s := by
  simp [timeStartRule, hp]

theorem timeStartRule_elsewhere {s : State} (b : Byte) (w : Word) (h8 : s.rx.pos ≠ 8) (h10 : s.rx.pos ≠ 10) :
    timeStartRule s b w = .ok (.goesOn s) := by
  rw [timeStartRule, if_neg h8, if_neg h10]

theorem firstHeader_time {s : State} (h : s.rx.subHdr = s.cfg.timeMarker) :
    firstHeader s = .ok (.goesOn (s.withRx { s.rx with rxState := .time })) := if_pos h

theorem firstHeader_command {s : State} (ht : s.rx.subHdr ≠ s.cfg.timeMarker) (hc : s.rx.subHdr = s.cfg.cmdMarker) :
    firstHeader s = beginCommand s 4 := by
  rw [firstHeader, if_neg ht, if_pos hc]

theorem firstHeader_unknown {s : State} (ht : s.rx.subHdr ≠ s.cfg.timeMarker) (hc : s.rx.subHdr ≠ s.cfg.cmdMarker) :
    firstHeader s = alarmToCmdStart s (headerAlarm s.cfg s.rx.subHdr) := by
  rw [firstHeader, if_neg ht, if_neg hc]

/-- Settles O33: the rule acts at p = 8 and p = 10 only. -/
theorem firstHeaderWordCaptured : Obligations.FirstHeaderWordCaptured := by
  intro s b hst ht hm
  have htaken : (taken s b).rx.pos = s.rx.pos + 1 := rfl
  refine ⟨fun hpos => ?_, fun hpos => ?_⟩
  · refine (exec_of_rule_midFrame hst (by decide) ht hm
      (timeStartRule_at_8 b _ (by rw [htaken, hpos])) ⟨rfl, rfl, rfl⟩).trans ?_
    rw [window_eq_ofNat]
    rfl
  · exact exec_of_rule_midFrame hst (by decide) ht hm
      (timeStartRule_elsewhere b _ (by rw [htaken]; omega) (by rw [htaken]; omega)) ⟨rfl, rfl, rfl⟩

/-- Settles O34: the three branches of the header test; each leaves the frame's own registers alone. -/
theorem firstHeaderWordDecides : Obligations.FirstHeaderWordDecides := by
  intro s b hst ht hm hc hpos
  have hrule := timeStartRule_at_10 (s := taken s b) b (window s.rx b) (congrArg (· + 1) hpos)
  refine ⟨fun htime => ?_, fun htime hcmd hk => ?_, fun htime hcmd => ?_⟩
  · exact exec_of_rule_midFrame hst (by decide) ht hm (hrule.trans (firstHeader_time htime)) ⟨rfl, rfl, rfl⟩
  · exact exec_of_rule_midFrame hst (by decide) ht hm
      (hrule.trans ((firstHeader_command (s := taken s b) htime hcmd).trans (beginCommand_eq 4 hk))) ⟨rfl, rfl, rfl⟩
  · refine (exec_of_rule_midFrame hst (by decide) ht hm
      (hrule.trans ((firstHeader_unknown (s := taken s b) htime hcmd).trans (alarmToCmdStart_taken b ht hc _)))
      ⟨rfl, rfl, rfl⟩).trans ?_
    rw [headerAlarm_code]
    rfl

/-! ### TIME (rules R148 to R150) -/

theorem timeRule_at_12 {s : State} (b : Byte) (w : Word) (hp : s.rx.pos = 12) :
    timeRule s b w = .ok (.goesOn (s.withRx { s.rx with tl := w })) := if_pos hp

theorem timeRule_bad_length {s : State} (b : Byte) (w : Word) (hp : s.rx.pos = 14) (hl : s.rx.tl ≠ s.cfg.timeLenExpected) :
    timeRule s b w = alarmToCmdStart s .ccsdsLength := by
  rw [timeRule, if_neg (by omega), if_pos ⟨hp, hl⟩]

theorem timeRule_time_bytes {s : State} (b : Byte) (w : Word) (hp : 15 ≤ s.rx.pos ∧ s.rx.pos ≤ 18) :
    timeRule s b w = .ok (.goesOn (timeBytes s b)) := by
  rw [timeRule, if_neg (by omega), if_neg (by omega), if_pos hp]

theorem timeRule_reserved {s : State} (b : Byte) (w : Word) (hp : 19 ≤ s.rx.pos ∧ s.rx.pos ≤ 48) :
    timeRule s b w = reservedByte s b := by
  rw [timeRule, if_neg (by omega), if_neg (by omega), if_neg (by omega), if_pos hp]

theorem timeRule_elsewhere {s : State} (b : Byte) (w : Word) (h12 : s.rx.pos ≠ 12)
    (h14 : ¬ (s.rx.pos = 14 ∧ s.rx.tl ≠ s.cfg.timeLenExpected)) (hp : s.rx.pos < 15 ∨ 48 < s.rx.pos) :
    timeRule s b w = .ok (.goesOn s) := by
  rw [timeRule, if_neg h12, if_neg h14, if_neg (by omega), if_neg (by omega)]

/-- Settles O35: the rule acts at p = 12, and at p = 14 on a wrong length. -/
theorem timestampLengthChecked : Obligations.TimestampLengthChecked := by
  intro s b hst ht hm hc
  have htaken : (taken s b).rx.pos = s.rx.pos + 1 := rfl
  refine ⟨fun hpos => ?_, fun hpos => ?_, fun hpos hl => ?_⟩
  · refine (exec_of_rule_midFrame hst (by decide) ht hm
      (timeRule_at_12 b _ (by rw [htaken, hpos])) ⟨rfl, rfl, rfl⟩).trans ?_
    rw [window_eq_ofNat]
    rfl
  · have h14 : ¬ ((taken s b).rx.pos = 14 ∧ (taken s b).rx.tl ≠ s.cfg.timeLenExpected) := by
      rintro ⟨h14, hl⟩
      rw [htaken] at h14
      obtain h | h | ⟨-, h⟩ := hpos
      · omega
      · omega
      · exact hl h
    exact exec_of_rule_midFrame hst (by decide) ht hm
      (timeRule_elsewhere b _ (by rw [htaken]; omega) h14 (by rw [htaken]; omega)) ⟨rfl, rfl, rfl⟩
  · exact exec_of_rule_midFrame hst (by decide) ht hm
      ((timeRule_bad_length (s := taken s b) b _ (by rw [htaken, hpos]) hl).trans (alarmToCmdStart_taken b ht hc _))
      ⟨rfl, rfl, rfl⟩

theorem timeBytes_before_18 {s : State} (b : Byte) (hp : s.rx.pos ≠ 18) :
    timeBytes s b = s.withRx { s.rx with timeSr := shiftIn s.rx.timeSr b } := if_neg hp

theorem timeBytes_at_18 {s : State} (b : Byte) (hp : s.rx.pos = 18) :
    timeBytes s b = (s.withRx { s.rx with timeSr := shiftIn s.rx.timeSr b }).withInst
      { s.inst with pendingTime := shiftIn s.rx.timeSr b, timeReceived := true } := if_pos hp

/-- Settles O36: the shift at p = 15 to 18, with the capture at p = 18. -/
theorem timestampCaptured : Obligations.TimestampCaptured := by
  intro s b hst ht hm sr
  have htaken : (taken s b).rx.pos = s.rx.pos + 1 := rfl
  have hsr : shiftIn s.rx.timeSr b = sr := shiftIn_eq_ofNat ..
  refine ⟨fun hlo hhi => ?_, fun hpos => ?_⟩
  · have hrule := timeRule_time_bytes (s := taken s b) b (window s.rx b) (by rw [htaken]; omega)
    rw [timeBytes_before_18 b (by rw [htaken]; omega)] at hrule
    refine (exec_of_rule_midFrame hst (by decide) ht hm hrule ⟨rfl, rfl, rfl⟩).trans ?_
    rw [← hsr]
    rfl
  · have hrule := timeRule_time_bytes (s := taken s b) b (window s.rx b) (by rw [htaken]; omega)
    rw [timeBytes_at_18 b (by rw [htaken, hpos])] at hrule
    refine (exec_of_rule_midFrame hst (by decide) ht hm hrule ⟨rfl, rfl, rfl⟩).trans ?_
    rw [← hsr]
    rfl

theorem fmtErrNext_eq (f : Bool) (b : Byte) : fmtErrNext f b = decide (f = true ∨ b ≠ 0) := by
  simp [fmtErrNext]

/-- The state with the reserved byte tested. -/
def reservedTested (s : State) (b : Byte) : State := s.withRx { s.rx with fmtErr := fmtErrNext s.rx.fmtErr b }

theorem reservedTested_eq {s : State} {b : Byte} {e : Bool} (h : fmtErrNext s.rx.fmtErr b = e) :
    reservedTested s b = s.withRx { s.rx with fmtErr := e } := by
  rw [reservedTested, h]

theorem reservedByte_before_48 {s : State} (b : Byte) (hp : s.rx.pos ≠ 48) :
    reservedByte s b = .ok (.goesOn (reservedTested s b)) := if_neg hp

theorem reservedByte_at_48 {s : State} (b : Byte) (hp : s.rx.pos = 48) :
    reservedByte s b = timeEnd (reservedTested s b) := if_pos hp

theorem timeEnd_clean {s : State} (h : s.rx.fmtErr = false) : timeEnd s = .ok (.goesOn (toCmdStart s)) := by
  simp [timeEnd, h]

theorem timeEnd_alarm {s : State} (h : s.rx.fmtErr = true) (ht : s.crcTable = builtCrcTable) (hc : s.CanSend) :
    timeEnd s = .ok (.goesOn (toCmdStart
      ((afterAlarm s 3).withInst { (afterAlarm s 3).inst with timeReceived := false }))) := by
  rw [timeEnd, if_pos h, raiseAlarm_eq_afterAlarm ht hc, ok_bind]
  rfl

/-- Settles O37: the last byte of the span is tested before the deferred alarm. -/
theorem reservedSpanChecked : Obligations.ReservedSpanChecked := by
  intro s b hst ht hm hc bad
  have htaken : (taken s b).rx.pos = s.rx.pos + 1 := rfl
  have hflag : fmtErrNext s.rx.fmtErr b = decide bad := fmtErrNext_eq ..
  refine ⟨fun hlo hhi => ?_, fun hpos hgood => ?_, fun hpos hbad => ?_⟩
  · have hrule := (timeRule_reserved (s := taken s b) b (window s.rx b) (by rw [htaken]; omega)).trans
      (reservedByte_before_48 b (by rw [htaken]; omega))
    rw [reservedTested_eq (s := taken s b) hflag] at hrule
    exact exec_of_rule_midFrame hst (by decide) ht hm hrule ⟨rfl, rfl, rfl⟩
  all_goals
    have hrule := (timeRule_reserved (s := taken s b) b (window s.rx b) (by rw [htaken]; omega)).trans
      (reservedByte_at_48 b (by rw [htaken, hpos]))
  · have hclean : s.rx.fmtErr = false := Bool.eq_false_iff.mpr fun hf => hgood (.inl hf)
    have hsame : fmtErrNext s.rx.fmtErr b = s.rx.fmtErr := hflag.trans ((decide_eq_false hgood).trans hclean.symm)
    rw [reservedTested_eq (s := taken s b) hsame] at hrule
    exact exec_of_rule_midFrame hst (by decide) ht hm (hrule.trans (timeEnd_clean hclean)) ⟨rfl, rfl, rfl⟩
  · rw [reservedTested_eq (s := taken s b) (hflag.trans (decide_eq_true hbad))] at hrule
    exact exec_of_rule_midFrame hst (by decide) ht hm (hrule.trans (timeEnd_alarm rfl ht hc)) ⟨rfl, rfl, rfl⟩

end Sys2Proof.Proofs.FrameBytes
end

section
/-! The frame receiver in CMD_START and CMD (41_frame_receiver.md sections 5 and 6), byte by byte: the search for a command
header, the length check with the excision, the body bytes in the scratch buffer, and the completed record. -/

namespace Sys2Proof.Proofs.CommandBytes

open Sys2Proof.Machine Sys2Proof.Proofs.Receiver Sys2Proof.Proofs.Telemetry Sys2Proof.Proofs.FrameBytes

theorem succ_toNat_of_lt {n : Nat} {v : BitVec n} (h : v.toNat + 1 < 2 ^ n) : (v + 1).toNat = v.toNat + 1 := by
  rw [show (1 : BitVec n) = BitVec.ofNat n 1 from rfl, BitVec.toNat_add, BitVec.toNat_ofNat, Nat.add_mod_mod,
    Nat.mod_eq_of_lt h]

theorem succ_eq_ofNat {n : Nat} (v : BitVec n) : v + 1 = BitVec.ofNat n (v.toNat + 1) := by
  rw [BitVec.ofNat_add, BitVec.ofNat_toNat, BitVec.setWidth_eq]
  rfl

theorem window_eq_iff (rx : Receiver) (b : Byte) (w : Word) : window rx b = w ↔ windowNat rx b = w.toNat := by
  rw [← BitVec.toNat_inj, window_toNat]

/-! ### CMD_START (rule R151) -/

/-- The state with the idle byte counted. -/
def idleCounted (s : State) : State := s.withRx { s.rx with idleCnt := s.rx.idleCnt + 1 }

theorem cmdStartRule_found {s : State} (b : Byte) {w : Word} (h2 : 2 ≤ (s.rx.idleCnt + 1).toNat) (hw : w = s.cfg.cmdMarker) :
    cmdStartRule s b w = beginCommand (idleCounted s) 2 := if_pos ⟨h2, hw⟩

theorem cmdStartRule_counts {s : State} (b : Byte) {w : Word}
    (hf : ¬ (2 ≤ (s.rx.idleCnt + 1).toNat ∧ w = s.cfg.cmdMarker)) (h2 : (s.rx.idleCnt + 1).toNat ≤ 2) :
    cmdStartRule s b w = .ok (.goesOn (idleCounted s)) :=
  (if_neg hf).trans (if_neg (Nat.not_lt.mpr h2))

/-- The alarm of the third idle byte (rule R151). -/
def searchAlarm (s : State) (w : Word) : AlarmCode :=
  if beforeTrailer s.rx && knownApid s.cfg w then .ccsdsFormat else .ccsdsApid

theorem cmdStartRule_third {s : State} (b : Byte) {w : Word}
    (hf : ¬ (2 ≤ (s.rx.idleCnt + 1).toNat ∧ w = s.cfg.cmdMarker)) (h3 : 2 < (s.rx.idleCnt + 1).toNat) :
    cmdStartRule s b w = (raiseAlarm (idleCounted s) (searchAlarm s w) >>= fun u =>
      .ok (.goesOn (u.withRx { u.rx with idleCnt := 0 }))) :=
  (if_neg hf).trans (if_pos h3)

theorem searchAlarm_code (s : State) (w : Word) :
    (searchAlarm s w).code = if s.rx.pos + 2 ≤ s.rx.frameEnd.toNat ∧ apidKnown s.cfg w.toNat then 3 else 4 := by
  rw [searchAlarm, apply_ite AlarmCode.code]
  simp only [beforeTrailer, Bool.and_eq_true, decide_eq_true_eq, knownApid_iff]
  rfl

/-- Settles O38: a header found, an idle byte counted, the alarm of the third. -/
theorem commandHeaderSearched : Obligations.CommandHeaderSearched := by
  intro s b hst ht hm hc n found hn
  have hcount : ((taken s b).rx.idleCnt + 1).toNat = n := succ_toNat_of_lt (v := s.rx.idleCnt) (by omega)
  have hfound : (2 ≤ ((taken s b).rx.idleCnt + 1).toNat ∧ window s.rx b = (taken s b).cfg.cmdMarker) ↔ found := by
    rw [hcount, window_eq_iff]
    rfl
  refine ⟨fun hf hk => ?_, fun hf h2 => ?_, fun hf h3 => ?_⟩
  · obtain ⟨h2, hw⟩ := hfound.mpr hf
    have hrule := (cmdStartRule_found b h2 hw).trans (beginCommand_eq 2 (s := idleCounted (taken s b)) hk)
    exact exec_of_rule_midFrame hst (by decide) ht hm hrule ⟨rfl, rfl, rfl⟩
  · have hrule := cmdStartRule_counts (s := taken s b) b (hfound.not.mpr hf) (hcount.trans_le h2)
    refine (exec_of_rule_midFrame hst (by decide) ht hm hrule ⟨rfl, rfl, rfl⟩).trans ?_
    rw [show BitVec.ofNat 8 n = s.rx.idleCnt + 1 from (succ_eq_ofNat _).symm]
    rfl
  · have hrule := cmdStartRule_third (s := taken s b) b (hfound.not.mpr hf) (by omega)
    rw [raiseAlarm_eq_afterAlarm (s := idleCounted (taken s b)) ht hc, ok_bind, searchAlarm_code, window_toNat] at hrule
    exact exec_of_rule_midFrame hst (by decide) ht hm hrule ⟨rfl, rfl, rfl⟩

/-- Settles O39: the limit is looked at when the header has matched, in TIME_START as in CMD_START. -/
theorem commandCountLimitAborts : Obligations.CommandCountLimitAborts := by
  intro s b ht hc hov hk
  refine ⟨fun hst h1 h2 hw => ?_, fun hst hpos htime hcmd => ?_⟩
  · have hcount : ((taken s b).rx.idleCnt + 1).toNat = s.rx.idleCnt.toNat + 1 :=
      succ_toNat_of_lt (v := s.rx.idleCnt) (by omega)
    have hrule := (cmdStartRule_found (s := taken s b) b (by omega) ((window_eq_iff ..).mpr hw)).trans
      (beginCommand_at_limit 2 (s := idleCounted (taken s b)) hk)
    rw [abortWith, raiseAlarm_eq_afterAlarm (s := idleCounted (taken s b)) ht hc, ok_bind] at hrule
    exact exec_of_rule_aborts hst (by decide) ht hov hrule
  · have hrule := (timeStartRule_at_10 (s := taken s b) b (window s.rx b) (congrArg (· + 1) hpos)).trans
      ((firstHeader_command (s := taken s b) htime hcmd).trans (beginCommand_at_limit 4 hk))
    exact exec_of_rule_aborts hst (by decide) ht hov (hrule.trans (abortWith_taken b ht hc _))

/-! ### CMD: the counter and the length check (rules R152, R153, R155) -/

/-- The state with the command byte counted. -/
def cmdCounted (s : State) : State := s.withRx { s.rx with cmdC := s.rx.cmdC + 1 }

theorem cmdRule_at_6 {s : State} (b : Byte) (w : Word) (h : s.rx.cmdC + 1 = 6) :
    cmdRule s b w = cmdLengthCheck (cmdCounted s) w := if_pos h

theorem cmdRule_body {s : State} (b : Byte) (w : Word) (h : 11 ≤ (s.rx.cmdC + 1).toNat) :
    cmdRule s b w = cmdBody (cmdCounted s) b := by
  have h6 : ¬ s.rx.cmdC + 1 = 6 := fun h6 => absurd (h6 ▸ h) (by decide)
  exact (if_neg h6).trans (if_pos h)

theorem cmdRule_header {s : State} (b : Byte) (w : Word) (h6 : s.rx.cmdC + 1 ≠ 6) (h11 : (s.rx.cmdC + 1).toNat < 11) :
    cmdRule s b w = .ok (.goesOn (cmdCounted s)) :=
  (if_neg h6).trans (if_neg (Nat.not_le.mpr h11))

/-- Settles O40: the rule acts at c = 6 and from c = 11 on. -/
theorem commandHeaderBytesIgnored : Obligations.CommandHeaderBytesIgnored := by
  intro s b hst ht hm c hrange
  have hcount : ((taken s b).rx.cmdC + 1).toNat = c := succ_toNat_of_lt (v := s.rx.cmdC) (by omega)
  have h6 : (taken s b).rx.cmdC + 1 ≠ 6 := by
    intro h6
    have : c = 6 := hcount.symm.trans (congrArg BitVec.toNat h6)
    omega
  refine (exec_of_rule_midFrame hst (by decide) ht hm (cmdRule_header b _ h6 (by omega)) ⟨rfl, rfl, rfl⟩).trans ?_
  rw [show BitVec.ofNat 16 c = s.rx.cmdC + 1 from (succ_eq_ofNat _).symm]
  rfl

theorem cmdLengthBad_iff {cfg : Config} {w : Word} :
    cmdLengthBad cfg w = true ↔ w.toNat < cfg.minCmd ∨ cfg.maxCmd < w.toNat := by
  simp [cmdLengthBad]

theorem cmdPadFlag_eq (w : Word) : cmdPadFlag w = decide (w.toNat % 2 = 0) := by
  rw [cmdPadFlag, BitVec.getLsbD, Nat.testBit_zero]
  rcases Nat.mod_two_eq_zero_or_one w.toNat with h | h <;> simp [h]

theorem cmdEndOf_eq (w : Word) : cmdEndOf w = BitVec.ofNat 16 (w.toNat + 7 + if w.toNat % 2 = 0 then 1 else 0) := by
  have h7 : (7 : Word) = BitVec.ofNat 16 7 := rfl
  rw [cmdEndOf, cmdPadFlag_eq, BitVec.ofNat_add, BitVec.ofNat_add, BitVec.ofNat_toNat, BitVec.setWidth_eq, h7]
  congr 1
  rcases Nat.mod_two_eq_zero_or_one w.toNat with h | h <;> simp [h]

theorem cmdLengthCheck_accepts {s : State} {w : Word} (h : ¬ cmdLengthBad s.cfg w = true) :
    cmdLengthCheck s w =
      .ok (.goesOn (s.withRx { s.rx with cmdLen := w, cmdPad := cmdPadFlag w, cmdEnd := cmdEndOf w })) := if_neg h

theorem cmdLengthCheck_rejects {s : State} {w : Word} (h : cmdLengthBad s.cfg w = true) :
    cmdLengthCheck s w = (do
      let u ← raiseAlarm s .ccsdsLength
      let v ← excise u
      .ok (.goesOn (toCmdStart v))) := if_pos h

/-- Settles O41: the pad flag and the end, read as numbers. -/
theorem commandLengthAccepted : Obligations.CommandLengthAccepted := by
  intro s b hst ht hm hc5 cl hmin hmax
  have hw : (window s.rx b).toNat = cl := window_toNat ..
  have h6 : (taken s b).rx.cmdC + 1 = 6 := congrArg (· + 1) hc5
  have hok : ¬ cmdLengthBad (cmdCounted (taken s b)).cfg (window s.rx b) = true := by
    rw [cmdLengthBad_iff, hw]
    exact not_or.mpr ⟨Nat.not_lt.mpr hmin, Nat.not_lt.mpr hmax⟩
  have hrule := (cmdRule_at_6 b (window s.rx b) h6).trans (cmdLengthCheck_accepts hok)
  rw [cmdPadFlag_eq, cmdEndOf_eq, hw] at hrule
  refine (exec_of_rule_midFrame hst (by decide) ht hm hrule ⟨rfl, rfl, rfl⟩).trans ?_
  rw [window_eq_ofNat, ← h6]
  rfl

/-- The record file after an excision, entry by entry (rule R153). -/
theorem excisedRecs_getElem? {cfg : Config} {recs : List CmdRecord} {k : Nat} (hk : k < recs.length) (j : Nat) :
    (excisedRecs cfg recs k)[j]? =
      if j = k then some ⟨0, 0⟩
      else if cfg.exciseClearsPredCount = true ∧ j + 1 = k then recs[j]?.map (fun r => { r with cnt := 0 })
      else recs[j]? := by
  unfold excisedRecs predCleared
  by_cases hclear : cfg.exciseClearsPredCount = true ∧ 1 ≤ k
  · rw [if_pos (by simpa using hclear), List.getElem?_modify, List.getElem?_set]
    by_cases hj : j = k
    · have hpred : ¬ k - 1 = j := by omega
      have hpred' : ¬ k - 1 = k := by omega
      simp [hj, hk, hpred']
    · have hiff : k - 1 = j ↔ j + 1 = k := by omega
      by_cases hjk : j + 1 = k <;> simp [hj, Ne.symm hj, hiff, hjk, hclear.1]
  · have hnot : ¬ (cfg.exciseClearsPredCount = true ∧ j + 1 = k) := fun h => hclear ⟨h.1, by omega⟩
    rw [if_neg (by simpa using hclear), List.getElem?_set, if_neg hnot]
    by_cases hj : j = k
    · simp [hj, hk]
    · simp [hj, Ne.symm hj]

/-- Settles O42: the alarm, then the excision, then the search. -/
theorem commandLengthRejectedExcises : Obligations.CommandLengthRejectedExcises := by
  intro s b hst ht hm hc hc5 hk cl hbad
  have h6 : (taken s b).rx.cmdC + 1 = 6 := congrArg (· + 1) hc5
  have hb : cmdLengthBad (cmdCounted (taken s b)).cfg (window s.rx b) = true := by
    rw [cmdLengthBad_iff, window_toNat]
    exact hbad
  have hrule := (cmdRule_at_6 b (window s.rx b) h6).trans (cmdLengthCheck_rejects hb)
  rw [raiseAlarm_eq_afterAlarm (s := cmdCounted (taken s b)) ht hc, ok_bind,
    excise_eq (s := afterAlarm (cmdCounted (taken s b)) _) hk, ok_bind] at hrule
  exact ⟨excisedRecs s.cfg s.rx.recs s.rx.cmdK,
    exec_of_rule_midFrame hst (by decide) ht hm hrule ⟨rfl, rfl, rfl⟩, excisedRecs_getElem? hk⟩

/-! ### CMD: the body and the completion (rules R156, R157) -/

/-- The state with a body byte stored. -/
def bodyStored (s : State) (b : Byte) : State :=
  s.withRx { s.rx with scratch := Memory.write s.rx.scratch s.rx.wp b, wp := s.rx.wp + 1 }

theorem cmdBody_full {s : State} (b : Byte) (hin : s.rx.cmdC.toNat ≤ s.rx.cmdLen.toNat + 7)
    (hfull : s.cfg.scratchSize ≤ s.rx.wp) : cmdBody s b = abortWith s .itfLength :=
  (if_pos hin).trans (if_pos hfull)

theorem cmdBody_stores {s : State} (b : Byte) (hin : s.rx.cmdC.toNat ≤ s.rx.cmdLen.toNat + 7)
    (hroom : s.rx.wp < s.cfg.scratchSize) : cmdBody s b = completeCommand (bodyStored s b) := by
  refine (if_pos hin).trans ((if_neg (Nat.not_le.mpr hroom)).trans ?_)
  rw [scratchWrite_eq b hroom, ok_bind]
  rfl

theorem cmdBody_pad {s : State} (b : Byte) (hout : ¬ s.rx.cmdC.toNat ≤ s.rx.cmdLen.toNat + 7) :
    cmdBody s b = completeCommand s := if_neg hout

theorem completeCommand_before_end {s : State} (h : s.rx.cmdC ≠ s.rx.cmdEnd) : completeCommand s = .ok (.goesOn s) :=
  if_neg h

/-- The record of the command in progress (rule R157). -/
def commandRecord (rx : Receiver) : CmdRecord := ⟨recordOffset rx.cmdStartWp, (rx.cmdLen - 4).setWidth 8⟩

/-- The receiver with the command in progress completed and the search begun (rule R157). -/
def commandDone (rx : Receiver) : Receiver :=
  { rx with recs := rx.recs.set rx.cmdK (commandRecord rx), cmdK := rx.cmdK + 1, rxState := .cmdStart, idleCnt := 0 }

theorem completeCommand_at_end {s : State} (h : s.rx.cmdC = s.rx.cmdEnd) (hk : s.rx.cmdK < s.rx.recs.length) :
    completeCommand s = .ok (.goesOn (s.withRx (commandDone s.rx))) := by
  rw [completeCommand, if_pos h, recordWrite_eq _ hk, ok_bind]
  rfl

/-- Settles O44: the room is looked at before the byte is stored. -/
theorem scratchOverflowAborts : Obligations.ScratchOverflowAborts := by
  intro s b hst ht hc hov hfull c h11 hc16 hin
  have hcount : ((taken s b).rx.cmdC + 1).toNat = c := succ_toNat_of_lt (v := s.rx.cmdC) hc16
  have hrule := (cmdRule_body (s := taken s b) b (window s.rx b) (by omega)).trans
    (cmdBody_full (s := cmdCounted (taken s b)) b (hcount.trans_le hin) hfull)
  rw [abortWith, raiseAlarm_eq_afterAlarm (s := cmdCounted (taken s b)) ht hc, ok_bind] at hrule
  exact exec_of_rule_aborts hst (by decide) ht hov hrule

/-- A byte written is read back at its index, and at no other. -/
theorem read_write_eq {m : Memory} (i : Nat) (v : Byte) (hwf : Memory.wf m = true) (a : Nat) :
    Memory.read (Memory.write m i v) a = if a = i then v else Memory.read m a := by
  split
  · subst_vars
    exact Memory.read_write_same _ v hwf
  · exact Memory.read_write_other v ‹_›

theorem ne_of_toNat_ne {n : Nat} {v w : BitVec n} (h : v.toNat ≠ w.toNat) : v ≠ w := fun e => h (congrArg _ e)

/-- Settles O43: the store, then a completion check that does not hold. -/
theorem commandBodyByteStored : Obligations.CommandBodyByteStored := by
  intro s b hst ht hm hwf hroom c h11 hc16 hin hend
  have hcount : ((taken s b).rx.cmdC + 1).toNat = c := succ_toNat_of_lt (v := s.rx.cmdC) hc16
  have hne : s.rx.cmdC + 1 ≠ s.rx.cmdEnd := ne_of_toNat_ne (hcount.trans_ne hend)
  have hrule := (cmdRule_body (s := taken s b) b (window s.rx b) (by omega)).trans
    ((cmdBody_stores (s := cmdCounted (taken s b)) b (hcount.trans_le hin) hroom).trans
      (completeCommand_before_end hne))
  refine ⟨Memory.write s.rx.scratch s.rx.wp b, ?_, Memory.wf_write _ b hwf, read_write_eq _ b hwf⟩
  refine (exec_of_rule_midFrame hst (by decide) ht hm hrule ⟨rfl, rfl, rfl⟩).trans ?_
  rw [show BitVec.ofNat 16 c = s.rx.cmdC + 1 from (succ_eq_ofNat _).symm]
  rfl

/-- The argument count of a command record, as a number (rule R157). -/
theorem recordCount_eq {cl : Word} (h : 4 ≤ cl.toNat) : (cl - 4).setWidth 8 = BitVec.ofNat 8 (cl.toNat - 4) := by
  have h4 : (4 : Word).toNat = 4 := rfl
  have hlt := cl.isLt
  apply BitVec.eq_of_toNat_eq
  simp only [BitVec.toNat_setWidth, BitVec.toNat_sub, BitVec.toNat_ofNat, h4]
  omega

/-- Settles O45: the last body byte is stored before the completion, a pad byte goes straight to it. -/
theorem commandCompletes : Obligations.CommandCompletes := by
  intro s b hst ht hm hwf hk h4 c stored hroom h11 hc16 hend
  have hcount : ((taken s b).rx.cmdC + 1).toNat = c := succ_toNat_of_lt (v := s.rx.cmdC) hc16
  have hatEnd : s.rx.cmdC + 1 = s.rx.cmdEnd := BitVec.eq_of_toNat_eq (hcount.trans hend)
  have hc : BitVec.ofNat 16 c = s.rx.cmdC + 1 := (succ_eq_ofNat _).symm
  have hbody := cmdRule_body (s := taken s b) b (window s.rx b) (by omega)
  by_cases hin : stored
  · have hrule := hbody.trans ((cmdBody_stores (s := cmdCounted (taken s b)) b (hcount.trans_le hin) (hroom hin)).trans
      (completeCommand_at_end (s := bodyStored (cmdCounted (taken s b)) b) hatEnd hk))
    refine ⟨Memory.write s.rx.scratch s.rx.wp b, ?_, Memory.wf_write _ b hwf, fun a => ?_⟩
    · refine (exec_of_rule_midFrame hst (by decide) ht hm hrule ⟨rfl, rfl, rfl⟩).trans ?_
      rw [hc, ← recordCount_eq h4, if_pos hin]
      rfl
    · simpa [hin] using read_write_eq s.rx.wp b hwf a
  · have hrule := hbody.trans ((cmdBody_pad (s := cmdCounted (taken s b)) b (fun h => hin (hcount.symm.trans_le h))).trans
      (completeCommand_at_end hatEnd hk))
    refine ⟨s.rx.scratch, ?_, hwf, fun a => by simp [hin]⟩
    refine (exec_of_rule_midFrame hst (by decide) ht hm hrule ⟨rfl, rfl, rfl⟩).trans ?_
    rw [hc, ← recordCount_eq h4, if_neg hin]
    rfl

end Sys2Proof.Proofs.CommandBytes
end

section
/-! What one inbound byte can do, said once from any state: each state rule raises at most one alarm and then aborts or goes on
with a receiver of a listed shape, and the end of the step adds the end-of-frame output. The invariants of the receiver follow
from this and open no rule again. -/

namespace Sys2Proof.Proofs.ByteAnswers

open Sys2Proof.Machine Sys2Proof.Proofs.Engine Sys2Proof.Proofs.Telemetry Sys2Proof.Proofs.Sends
  Sys2Proof.Proofs.FrameBytes Sys2Proof.Proofs.CommandBytes

/-! ### What no rule of the receiver touches -/

/-- What RXBYTE outside IDLE leaves alone: all but the receiver, the capture, the outbound side and its two counts. -/
structure ReceiverFrame (s t : State) : Prop where
  cfg : t.cfg = s.cfg
  crcTable : t.crcTable = s.crcTable
  inbound : t.inbound = s.inbound
  probe : t.probe = s.probe
  met : t.inst.met = s.inst.met
  sic : t.inst.sic = s.inst.sic
  drains : s.link.drains = none → t.link.drains = none

theorem ReceiverFrame.trans {s t u : State} (h : ReceiverFrame s t) (k : ReceiverFrame t u) : ReceiverFrame s u :=
  ⟨k.cfg.trans h.cfg, k.crcTable.trans h.crcTable, k.inbound.trans h.inbound, k.probe.trans h.probe, k.met.trans h.met,
    k.sic.trans h.sic, fun e => k.drains (h.drains e)⟩

theorem ReceiverFrame.withRx (s : State) (rx : Receiver) : ReceiverFrame s (s.withRx rx) :=
  ⟨rfl, rfl, rfl, rfl, rfl, rfl, id⟩

theorem ReceiverFrame.of_sameBlock {s t : State} (h : SameBlock s t) : ReceiverFrame s t :=
  ⟨h.cfg, h.crcTable, h.inbound, h.probe, h.met, h.sic, h.drains⟩

/-- The capture of rule R149 is as it was. -/
def CaptureKept (s t : State) : Prop :=
  t.inst.pendingTime = s.inst.pendingTime ∧ t.inst.timeReceived = s.inst.timeReceived

theorem CaptureKept.trans {s t u : State} (h : CaptureKept s t) (k : CaptureKept t u) : CaptureKept s u :=
  ⟨k.1.trans h.1, k.2.trans h.2⟩

theorem CaptureKept.of_sameBlock {s t : State} (h : SameBlock s t) : CaptureKept s t := ⟨h.pendingTime, h.timeReceived⟩

/-! ### At most one alarm -/

/-- `t` is `s` with another receiver, after no alarm or one. -/
def Alarmed (s t : State) : Prop := ∃ rx, t = s.withRx rx ∨ ∃ code, raiseAlarm (s.withRx rx) code = .ok t

/-- The packets of a state rule (rule R160). -/
def AtMostOneAlarm (ps : List Packet) : Prop := ps = [] ∨ ∃ p, ps = [p] ∧ p.kind = .alarm

theorem Alarmed.none (s : State) : Alarmed s s := ⟨s.rx, .inl rfl⟩

theorem Alarmed.of_alarm {s t : State} {code : AlarmCode} (h : raiseAlarm s code = .ok t) : Alarmed s t :=
  ⟨s.rx, .inr ⟨code, h⟩⟩

theorem Alarmed.of_withRx {s t : State} {rx : Receiver} (h : Alarmed (s.withRx rx) t) : Alarmed s t := by
  obtain ⟨rx', h⟩ := h
  exact ⟨rx', h⟩

theorem Alarmed.frame {s t : State} (h : Alarmed s t) : ReceiverFrame s t := by
  obtain ⟨rx, rfl | ⟨code, h⟩⟩ := h
  · exact .withRx s rx
  · exact (ReceiverFrame.withRx s rx).trans (.of_sameBlock (raiseAlarm_same h))

theorem Alarmed.captureKept {s t : State} (h : Alarmed s t) : CaptureKept s t := by
  obtain ⟨rx, rfl | ⟨code, h⟩⟩ := h
  · exact ⟨rfl, rfl⟩
  · exact CaptureKept.trans (t := s.withRx rx) ⟨rfl, rfl⟩ (.of_sameBlock (raiseAlarm_same h))

theorem emits_withRx (s : State) (rx : Receiver) : Emits s (s.withRx rx) [] := .nil rfl rfl rfl rfl

theorem Alarmed.emits {s t : State} (h : Alarmed s t) : ∃ ps, Emits s t ps ∧ AtMostOneAlarm ps := by
  obtain ⟨rx, rfl | ⟨code, h⟩⟩ := h
  · exact ⟨[], emits_withRx s rx, .inl rfl⟩
  · obtain ⟨p, hp, hk, -⟩ := raiseAlarm_emits h
    exact ⟨[p], (emits_withRx s rx).after_nil hp, .inr ⟨p, rfl, hk⟩⟩

/-! ### The receivers a state rule goes on with -/

/-- On to CMD_START. -/
def searchBegins (rx : Receiver) : Receiver := { rx with rxState := .cmdStart, idleCnt := 0 }

/-- A command begins, its byte counter at `c` (rule R154). -/
def commandBegins (rx : Receiver) (c : Word) : Receiver :=
  { rx with cmdC := c, cmdStartWp := rx.wp, cmdLen := 0, cmdPad := false, cmdEnd := 0, rxState := .cmd, idleCnt := 0 }

/-- LENGTH (rules R144, R145). -/
def LengthNext (cfg : Config) (rx : Receiver) (w : Word) (rx' : Receiver) : Prop :=
  (rx.pos ≠ 6 ∧ rx' = rx) ∨
  (rx.pos = 6 ∧ lengthFormat w = 0 ∧ frameLengthBad cfg (frameLength w) = false ∧ rx' = lengthAccepted rx w)

/-- TIME_START (rules R146, R147). -/
def TimeStartNext (cfg : Config) (rx rx' : Receiver) : Prop :=
  (rx.pos ≠ 10 ∧ ∃ h, rx' = { rx with subHdr := h }) ∨
  (rx.pos = 10 ∧
    (rx' = { rx with rxState := .time } ∨ (rx.cmdK < cfg.maxCmds ∧ rx' = commandBegins rx 4) ∨ rx' = searchBegins rx))

/-- TIME (rules R148 to R150). -/
def TimeNext (rx rx' : Receiver) : Prop :=
  (rx.pos ≠ 48 ∧ ∃ l sr e, rx' = { rx with tl := l, timeSr := sr, fmtErr := e }) ∨
  ((rx.pos = 14 ∨ rx.pos = 48) ∧ ∃ e, rx' = searchBegins { rx with fmtErr := e })

/-- CMD_START (rule R151). -/
def CmdStartNext (cfg : Config) (rx rx' : Receiver) : Prop :=
  (∃ n : Byte, n.toNat ≤ 2 ∧ rx' = { rx with idleCnt := n }) ∨ (rx.cmdK < cfg.maxCmds ∧ rx' = commandBegins rx 2)

/-- The receiver with a body byte stored (rule R156). -/
def rxStored (rx : Receiver) (b : Byte) : Receiver :=
  { rx with scratch := Memory.write rx.scratch rx.wp b, wp := rx.wp + 1 }

/-- The receiver with the command in progress excised (rule R153). -/
def rxExcised (cfg : Config) (rx : Receiver) : Receiver :=
  { rx with
    recs := excisedRecs cfg rx.recs rx.cmdK, wp := rx.cmdStartWp, cmdC := 0, cmdLen := 0, cmdPad := false, cmdEnd := 0 }

/-- The completion check (rule R157). -/
def CompleteNext (rx rx' : Receiver) : Prop :=
  (rx.cmdC ≠ rx.cmdEnd ∧ rx' = rx) ∨ (rx.cmdC = rx.cmdEnd ∧ rx.cmdK < rx.recs.length ∧ rx' = commandDone rx)

/-- CMD with the command byte already counted (rules R152 to R157). -/
def CmdNext (cfg : Config) (rx : Receiver) (w : Word) (b : Byte) (rx' : Receiver) : Prop :=
  (rx.cmdC ≠ 6 ∧ rx.cmdC.toNat < 11 ∧ rx' = rx) ∨
  (rx.cmdC = 6 ∧ cmdLengthBad cfg w = false ∧
    rx' = { rx with cmdLen := w, cmdPad := cmdPadFlag w, cmdEnd := cmdEndOf w }) ∨
  (rx.cmdC = 6 ∧ rx.cmdK < rx.recs.length ∧ rx' = searchBegins (rxExcised cfg rx)) ∨
  (11 ≤ rx.cmdC.toNat ∧ rx.cmdC.toNat ≤ rx.cmdLen.toNat + 7 ∧ rx.wp < cfg.scratchSize ∧ CompleteNext (rxStored rx b) rx') ∨
  (11 ≤ rx.cmdC.toNat ∧ rx.cmdLen.toNat + 7 < rx.cmdC.toNat ∧ CompleteNext rx rx')

/-- The receivers that the rule of the state `st` goes on with. -/
def RuleNext (st : RxState) (cfg : Config) (rx : Receiver) (w : Word) (b : Byte) (rx' : Receiver) : Prop :=
  match st with
  | .idle => False
  | .length => LengthNext cfg rx w rx'
  | .timeStart => TimeStartNext cfg rx rx'
  | .time => TimeNext rx rx'
  | .cmdStart => CmdStartNext cfg rx rx'
  | .cmd => CmdNext cfg { rx with cmdC := rx.cmdC + 1 } w b rx'

/-! ### The answers of the state rules -/

/-- `u` is `t` with another receiver and perhaps another capture. -/
def Moved (t u : State) : Prop :=
  u = (t.withRx u.rx).withInst
    { t.inst with pendingTime := u.inst.pendingTime, timeReceived := u.inst.timeReceived }

theorem Moved.withRx (t : State) (rx : Receiver) : Moved t (t.withRx rx) := rfl

/-- What a state rule can answer: after at most one alarm an abort, or a receiver that `Next` allows, with the capture as it was
unless the rule `mayCapture`. -/
def RuleAnswer (mayCapture : Prop) (s : State) (a : After) (Next : Receiver → Prop) : Prop :=
  ∃ t, Alarmed s t ∧
    (a = .aborted (rxReset t) ∨ ∃ u, a = .goesOn u ∧ Moved t u ∧ (CaptureKept t u ∨ mayCapture) ∧ Next u.rx)

theorem RuleAnswer.abort {c : Prop} {s : State} {code : AlarmCode} {a : After} {Next : Receiver → Prop}
    (h : abortWith s code = .ok a) : RuleAnswer c s a Next := by
  obtain ⟨t, ht, rfl⟩ := abortWith_ok h
  exact ⟨t, .of_alarm ht, .inl rfl⟩

/-- A rule that only changes the receiver. -/
theorem RuleAnswer.rx {c : Prop} {s : State} {rx' : Receiver} {Next : Receiver → Prop} (h : Next rx') :
    RuleAnswer c s (.goesOn (s.withRx rx')) Next :=
  ⟨s, .none s, .inr ⟨_, rfl, .withRx s rx', .inl ⟨rfl, rfl⟩, h⟩⟩

/-- A rule that raises an alarm and then only changes the receiver. -/
theorem RuleAnswer.alarm_rx {c : Prop} {s t : State} {code : AlarmCode} {rx' : Receiver} {Next : Receiver → Prop}
    (ht : raiseAlarm s code = .ok t) (h : Next rx') : RuleAnswer c s (.goesOn (t.withRx rx')) Next :=
  ⟨t, .of_alarm ht, .inr ⟨_, rfl, .withRx t rx', .inl ⟨rfl, rfl⟩, h⟩⟩

theorem RuleAnswer.of_withRx {c : Prop} {s : State} {rx : Receiver} {a : After} {Next : Receiver → Prop}
    (h : RuleAnswer c (s.withRx rx) a Next) : RuleAnswer c s a Next := by
  obtain ⟨t, ht, h⟩ := h
  exact ⟨t, ht.of_withRx, h⟩

theorem RuleAnswer.mono {c : Prop} {s : State} {a : After} {Next Next' : Receiver → Prop}
    (h : RuleAnswer c s a Next) (himp : ∀ rx', Next rx' → Next' rx') : RuleAnswer c s a Next' := by
  obtain ⟨t, ht, h | ⟨u, hu, hm, hc, hn⟩⟩ := h
  · exact ⟨t, ht, .inl h⟩
  · exact ⟨t, ht, .inr ⟨u, hu, hm, hc, himp _ hn⟩⟩

theorem beginCommand_answer {c : Prop} {s : State} {c0 : Word} {a : After} (h : beginCommand s c0 = .ok a) :
    RuleAnswer c s a fun rx' => s.rx.cmdK < s.cfg.maxCmds ∧ rx' = commandBegins s.rx c0 := by
  obtain ⟨-, t, ht, rfl⟩ | ⟨hk, rfl⟩ := beginCommand_ok h
  · exact ⟨t, .of_alarm ht, .inl rfl⟩
  · exact .rx ⟨hk, rfl⟩

theorem alarmToCmdStart_answer {c : Prop} {s : State} {code : AlarmCode} {a : After}
    (h : alarmToCmdStart s code = .ok a) : RuleAnswer c s a fun rx' => rx' = searchBegins s.rx := by
  obtain ⟨t, ht, rfl⟩ := alarmToCmdStart_ok h
  exact .alarm_rx ht (by rw [(raiseAlarm_same ht).rx]; rfl)

theorem lengthRule_answer {c : Prop} {s : State} {b : Byte} {w : Word} {a : After} (h : lengthRule s b w = .ok a) :
    RuleAnswer c s a (LengthNext s.cfg s.rx w) := by
  by_cases hp : s.rx.pos = 6
  · by_cases hf : lengthFormat w = 0
    · by_cases hl : frameLengthBad s.cfg (frameLength w) = true
      · rw [lengthRule_length b hp hf hl] at h
        exact .abort h
      · rw [lengthRule_accepts b hp hf hl] at h
        cases h
        exact .rx (.inr ⟨hp, hf, Bool.eq_false_iff.mpr hl, rfl⟩)
    · rw [lengthRule_format b hp hf] at h
      exact .abort h
  · rw [lengthRule, if_neg hp] at h
    cases h
    exact .rx (.inl ⟨hp, rfl⟩)

theorem firstHeader_answer {c : Prop} {s : State} {a : After} (hp : s.rx.pos = 10) (h : firstHeader s = .ok a) :
    RuleAnswer c s a (TimeStartNext s.cfg s.rx) := by
  by_cases ht : s.rx.subHdr = s.cfg.timeMarker
  · rw [firstHeader_time ht] at h
    cases h
    exact .rx (.inr ⟨hp, .inl rfl⟩)
  · by_cases hc : s.rx.subHdr = s.cfg.cmdMarker
    · rw [firstHeader_command ht hc] at h
      exact (beginCommand_answer h).mono fun _ hn => .inr ⟨hp, .inr (.inl hn)⟩
    · rw [firstHeader_unknown ht hc] at h
      exact (alarmToCmdStart_answer h).mono fun _ hn => .inr ⟨hp, .inr (.inr hn)⟩

theorem timeStartRule_answer {c : Prop} {s : State} {b : Byte} {w : Word} {a : After} (h : timeStartRule s b w = .ok a) :
    RuleAnswer c s a (TimeStartNext s.cfg s.rx) := by
  by_cases h10 : s.rx.pos = 10
  · rw [timeStartRule_at_10 b w h10] at h
    exact firstHeader_answer h10 h
  · by_cases h8 : s.rx.pos = 8
    · rw [timeStartRule_at_8 b w h8] at h
      cases h
      exact .rx (.inl ⟨h10, _, rfl⟩)
    · rw [timeStartRule_elsewhere b w h8 h10] at h
      cases h
      exact .rx (.inl ⟨h10, _, rfl⟩)

theorem timeEnd_answer {c : Prop} (hc : c) {s : State} {e : Bool} {a : After} (hp : s.rx.pos = 48)
    (h : timeEnd (s.withRx { s.rx with fmtErr := e }) = .ok a) : RuleAnswer c s a (TimeNext s.rx) := by
  refine RuleAnswer.of_withRx (rx := { s.rx with fmtErr := e }) ?_
  unfold timeEnd at h
  split at h
  · simp only [bind_eq_ok] at h
    obtain ⟨t, ht, h⟩ := h
    cases h
    refine ⟨t, .of_alarm ht, .inr ⟨_, rfl, rfl, .inr hc, .inr ⟨.inr hp, e, ?_⟩⟩⟩
    change searchBegins t.rx = _
    rw [(raiseAlarm_same ht).rx]
    rfl
  · cases h
    exact .rx (.inr ⟨.inr hp, e, rfl⟩)

theorem timeBytes_answer {c : Prop} (hc : c) (s : State) (b : Byte) (hp : s.rx.pos ≠ 48) :
    RuleAnswer c s (.goesOn (timeBytes s b)) (TimeNext s.rx) := by
  by_cases h18 : s.rx.pos = 18
  · rw [timeBytes_at_18 b h18]
    exact ⟨s, .none s, .inr ⟨_, rfl, rfl, .inr hc, .inl ⟨hp, _, _, _, rfl⟩⟩⟩
  · rw [timeBytes_before_18 b h18]
    exact .rx (.inl ⟨hp, _, _, _, rfl⟩)

theorem timeRule_answer {c : Prop} (hc : c) {s : State} {b : Byte} {w : Word} {a : After} (h : timeRule s b w = .ok a) :
    RuleAnswer c s a (TimeNext s.rx) := by
  by_cases h12 : s.rx.pos = 12
  · rw [timeRule_at_12 b w h12] at h
    cases h
    exact .rx (.inl ⟨by omega, _, _, _, rfl⟩)
  by_cases h14 : s.rx.pos = 14 ∧ s.rx.tl ≠ s.cfg.timeLenExpected
  · rw [timeRule_bad_length b w h14.1 h14.2] at h
    exact (alarmToCmdStart_answer h).mono fun _ hn => .inr ⟨.inl h14.1, _, hn⟩
  by_cases hbytes : 15 ≤ s.rx.pos ∧ s.rx.pos ≤ 18
  · rw [timeRule_time_bytes b w hbytes] at h
    cases h
    exact timeBytes_answer hc s b (by omega)
  by_cases hspan : 19 ≤ s.rx.pos ∧ s.rx.pos ≤ 48
  · rw [timeRule_reserved b w hspan] at h
    by_cases h48 : s.rx.pos = 48
    · rw [reservedByte_at_48 b h48] at h
      exact timeEnd_answer hc h48 h
    · rw [reservedByte_before_48 b h48] at h
      cases h
      exact .rx (.inl ⟨h48, _, _, _, rfl⟩)
  · rw [timeRule_elsewhere b w h12 h14 (by omega)] at h
    cases h
    exact .rx (.inl ⟨by omega, _, _, _, rfl⟩)

theorem cmdStartRule_answer {c : Prop} {s : State} {b : Byte} {w : Word} {a : After} (h : cmdStartRule s b w = .ok a) :
    RuleAnswer c s a (CmdStartNext s.cfg s.rx) := by
  by_cases hf : 2 ≤ (s.rx.idleCnt + 1).toNat ∧ w = s.cfg.cmdMarker
  · rw [cmdStartRule_found b hf.1 hf.2] at h
    refine RuleAnswer.of_withRx ((beginCommand_answer h).mono fun _ hn => .inr ⟨hn.1, ?_⟩)
    exact hn.2
  by_cases h2 : (s.rx.idleCnt + 1).toNat ≤ 2
  · rw [cmdStartRule_counts b hf h2] at h
    cases h
    exact .rx (.inl ⟨_, h2, rfl⟩)
  · rw [cmdStartRule_third b hf (by omega), bind_eq_ok] at h
    obtain ⟨t, ht, h⟩ := h
    cases h
    refine RuleAnswer.of_withRx (.alarm_rx ht (.inl ⟨0, by decide, ?_⟩))
    rw [(raiseAlarm_same ht).rx]
    rfl

theorem completeCommand_answer {c : Prop} {s : State} {a : After} (h : completeCommand s = .ok a) :
    RuleAnswer c s a (CompleteNext s.rx) := by
  by_cases hend : s.rx.cmdC = s.rx.cmdEnd
  · by_cases hk : s.rx.cmdK < s.rx.recs.length
    · rw [completeCommand_at_end hend hk] at h
      cases h
      exact .rx (.inr ⟨hend, hk, rfl⟩)
    · simp [completeCommand, hend, recordWrite, hk] at h
  · rw [completeCommand_before_end hend] at h
    cases h
    exact .rx (.inl ⟨hend, rfl⟩)

theorem cmdLengthCheck_answer {c : Prop} {s : State} {b : Byte} {w : Word} {a : After} (h6 : s.rx.cmdC = 6)
    (h : cmdLengthCheck s w = .ok a) : RuleAnswer c s a (CmdNext s.cfg s.rx w b) := by
  by_cases hl : cmdLengthBad s.cfg w = true
  · rw [cmdLengthCheck_rejects hl] at h
    simp only [bind_eq_ok] at h
    obtain ⟨t, ht, v, hv, h⟩ := h
    obtain ⟨hk, rfl⟩ := excise_ok hv
    cases h
    have hsame := raiseAlarm_same ht
    rw [hsame.rx] at hk
    refine RuleAnswer.alarm_rx (t := t) (rx' := searchBegins (rxExcised t.cfg t.rx)) ht (.inr (.inr (.inl ⟨h6, hk, ?_⟩)))
    rw [hsame.rx, hsame.cfg]
  · rw [cmdLengthCheck_accepts hl] at h
    cases h
    exact .rx (.inr (.inl ⟨h6, Bool.eq_false_iff.mpr hl, rfl⟩))

theorem cmdBody_answer {c : Prop} {s : State} {b : Byte} {w : Word} {a : After} (h11 : 11 ≤ s.rx.cmdC.toNat)
    (h : cmdBody s b = .ok a) : RuleAnswer c s a (CmdNext s.cfg s.rx w b) := by
  by_cases hin : s.rx.cmdC.toNat ≤ s.rx.cmdLen.toNat + 7
  · by_cases hroom : s.rx.wp < s.cfg.scratchSize
    · rw [cmdBody_stores b hin hroom] at h
      exact RuleAnswer.of_withRx ((completeCommand_answer h).mono fun _ hn =>
        .inr (.inr (.inr (.inl ⟨h11, hin, hroom, hn⟩))))
    · rw [cmdBody_full b hin (Nat.not_lt.mp hroom)] at h
      exact .abort h
  · rw [cmdBody_pad b hin] at h
    exact (completeCommand_answer h).mono fun _ hn => .inr (.inr (.inr (.inr ⟨h11, Nat.not_le.mp hin, hn⟩)))

theorem cmdRule_answer {c : Prop} {s : State} {b : Byte} {w : Word} {a : After} (h : cmdRule s b w = .ok a) :
    RuleAnswer c s a (CmdNext s.cfg { s.rx with cmdC := s.rx.cmdC + 1 } w b) := by
  by_cases h6 : s.rx.cmdC + 1 = 6
  · rw [cmdRule_at_6 b w h6] at h
    exact RuleAnswer.of_withRx (cmdLengthCheck_answer (s := cmdCounted s) h6 h)
  by_cases h11 : 11 ≤ (s.rx.cmdC + 1).toNat
  · rw [cmdRule_body b w h11] at h
    exact RuleAnswer.of_withRx (cmdBody_answer (s := cmdCounted s) h11 h)
  · rw [cmdRule_header b w h6 (Nat.not_le.mp h11)] at h
    cases h
    exact .rx (.inl ⟨h6, Nat.not_le.mp h11, rfl⟩)

/-- The five rules together: only TIME may capture. -/
theorem stateRule_answer {st : RxState} {s : State} {b : Byte} {w : Word} {a : After} (hne : st ≠ .idle)
    (h : stateRule st s b w = .ok a) : RuleAnswer (st = .time) s a (RuleNext st s.cfg s.rx w b) := by
  cases st with
  | idle => exact absurd rfl hne
  | length => exact lengthRule_answer (b := b) h
  | timeStart => exact timeStartRule_answer (b := b) h
  | time => exact timeRule_answer rfl h
  | cmdStart => exact cmdStartRule_answer (b := b) h
  | cmd => exact cmdRule_answer h

end Sys2Proof.Proofs.ByteAnswers
end

section
/-! The whole step of one inbound byte, from any state: its packets in order, its transition of the receiver, what it leaves of
the instrument state (rules R141, R158, R160), and the last byte of a frame (rule R158). -/

namespace Sys2Proof.Proofs.ByteSteps

open Sys2Proof.Machine Sys2Proof.Proofs.Receiver Sys2Proof.Proofs.Telemetry Sys2Proof.Proofs.Sends
  Sys2Proof.Proofs.FrameBytes Sys2Proof.Proofs.CommandBytes Sys2Proof.Proofs.ByteAnswers

/-! ### What a rule that goes on keeps of the receiver -/

theorem completeNext_kept {rx rx' : Receiver} (h : CompleteNext rx rx') :
    rx'.pos = rx.pos ∧ rx'.crc = rx.crc ∧ rx'.lenOk = rx.lenOk ∧ rx'.frameEnd = rx.frameEnd := by
  obtain ⟨-, rfl⟩ | ⟨-, -, rfl⟩ := h <;> exact ⟨rfl, rfl, rfl, rfl⟩

theorem cmdNext_kept {cfg : Config} {rx rx' : Receiver} {w : Word} {b : Byte} (h : CmdNext cfg rx w b rx') :
    rx'.pos = rx.pos ∧ rx'.crc = rx.crc ∧ rx'.lenOk = rx.lenOk ∧ rx'.frameEnd = rx.frameEnd := by
  obtain ⟨-, -, rfl⟩ | ⟨-, -, rfl⟩ | ⟨-, -, rfl⟩ | ⟨-, -, -, h⟩ | ⟨-, -, h⟩ := h
  · exact ⟨rfl, rfl, rfl, rfl⟩
  · exact ⟨rfl, rfl, rfl, rfl⟩
  · exact ⟨rfl, rfl, rfl, rfl⟩
  · exact completeNext_kept (rx := rxStored rx b) h
  · exact completeNext_kept h

/-- Every rule keeps the position and the checksum; only LENGTH sets the end of the frame. -/
theorem ruleNext_kept {st : RxState} {cfg : Config} {rx rx' : Receiver} {w : Word} {b : Byte}
    (h : RuleNext st cfg rx w b rx') :
    rx'.pos = rx.pos ∧ rx'.crc = rx.crc ∧ (st ≠ .length → rx'.lenOk = rx.lenOk ∧ rx'.frameEnd = rx.frameEnd) := by
  cases st with
  | idle => exact h.elim
  | length => obtain ⟨-, rfl⟩ | ⟨-, -, -, rfl⟩ := h <;> exact ⟨rfl, rfl, fun hne => absurd rfl hne⟩
  | timeStart =>
    obtain ⟨-, _, rfl⟩ | ⟨-, rfl | ⟨-, rfl⟩ | rfl⟩ := h <;> exact ⟨rfl, rfl, fun _ => ⟨rfl, rfl⟩⟩
  | time => obtain ⟨-, _, _, _, rfl⟩ | ⟨-, _, rfl⟩ := h <;> exact ⟨rfl, rfl, fun _ => ⟨rfl, rfl⟩⟩
  | cmdStart => obtain ⟨_, -, rfl⟩ | ⟨-, rfl⟩ := h <;> exact ⟨rfl, rfl, fun _ => ⟨rfl, rfl⟩⟩
  | cmd =>
    obtain ⟨hpos, hcrc, hlen, hend⟩ := cmdNext_kept h
    exact ⟨hpos, hcrc, fun _ => ⟨hlen, hend⟩⟩

/-- The transitions of a rule that goes on, as 41_frame_receiver.md opens with them. -/
def GoesOnTo : RxState → RxState → Prop
  | .idle, _ => False
  | .length, st => st = .length ∨ st = .timeStart
  | .timeStart, st => st = .timeStart ∨ st = .time ∨ st = .cmd ∨ st = .cmdStart
  | .time, st => st = .time ∨ st = .cmdStart
  | .cmdStart, st => st = .cmdStart ∨ st = .cmd
  | .cmd, st => st = .cmd ∨ st = .cmdStart

theorem GoesOnTo.ne_idle {st st' : RxState} (h : GoesOnTo st st') : st' ≠ .idle := by
  rintro rfl
  cases st <;> simp [GoesOnTo] at h

theorem completeNext_goesOnTo {rx rx' : Receiver} (hst : rx.rxState = .cmd) (h : CompleteNext rx rx') :
    GoesOnTo .cmd rx'.rxState := by
  obtain ⟨-, rfl⟩ | ⟨-, -, rfl⟩ := h
  · exact .inl hst
  · exact .inr rfl

theorem cmdNext_goesOnTo {cfg : Config} {rx rx' : Receiver} {w : Word} {b : Byte} (hst : rx.rxState = .cmd)
    (h : CmdNext cfg rx w b rx') : GoesOnTo .cmd rx'.rxState := by
  obtain ⟨-, -, rfl⟩ | ⟨-, -, rfl⟩ | ⟨-, -, rfl⟩ | ⟨-, -, -, h⟩ | ⟨-, -, h⟩ := h
  · exact .inl hst
  · exact .inl hst
  · exact .inr rfl
  · exact completeNext_goesOnTo (rx := rxStored rx b) hst h
  · exact completeNext_goesOnTo hst h

theorem ruleNext_goesOnTo {st : RxState} {cfg : Config} {rx rx' : Receiver} {w : Word} {b : Byte} (hst : rx.rxState = st)
    (h : RuleNext st cfg rx w b rx') : GoesOnTo st rx'.rxState := by
  cases st with
  | idle => exact h
  | length =>
    obtain ⟨-, rfl⟩ | ⟨-, -, -, rfl⟩ := h
    · exact .inl hst
    · exact .inr rfl
  | timeStart =>
    obtain ⟨-, _, rfl⟩ | ⟨-, rfl | ⟨-, rfl⟩ | rfl⟩ := h
    · exact .inl hst
    · exact .inr (.inl rfl)
    · exact .inr (.inr (.inl rfl))
    · exact .inr (.inr (.inr rfl))
  | time =>
    obtain ⟨-, _, _, _, rfl⟩ | ⟨-, _, rfl⟩ := h
    · exact .inl hst
    · exact .inr rfl
  | cmdStart =>
    obtain ⟨_, -, rfl⟩ | ⟨-, rfl⟩ := h
    · exact .inl hst
    · exact .inr rfl
  | cmd => exact cmdNext_goesOnTo (rx := { rx with cmdC := rx.cmdC + 1 }) hst h

/-! ### The step of a sync-locked state -/

/-- The packets of a frame's end (rule R160): Echoes, or one ITF_CHECKSUM alarm. -/
def FrameEndPackets (ps : List Packet) : Prop :=
  (∀ p ∈ ps, p.kind = .echo) ∨ ∃ p, ps = [p] ∧ p.kind = .alarm ∧ p.bytes[16]? = some 2

/-- What an inbound byte does in the sync-locked state `st`: the frame, the packets in order, and the receiver, cleared or the one
the state rule went on with. -/
structure LockedStep (st : RxState) (s : State) (b : Byte) (t : State) : Prop where
  frame : ReceiverFrame s t
  capture : CaptureKept s t ∨ st = .time
  packets : ∃ first last, Emits s t (first ++ last) ∧ AtMostOneAlarm first ∧ FrameEndPackets last
  rx : t.rx = rxCleared s.cfg ∨
    s.rx.pos + 1 ≤ s.cfg.maxPacketSize ∧ ∃ rx', RuleNext st s.cfg (countByte s b).rx (window s.rx b) b rx' ∧
      atFrameEnd rx' = false ∧ t.rx = { rx' with last := b }

theorem rxReset_frame (s : State) : ReceiverFrame s (rxReset s) := .withRx s _

theorem rxReset_emits (s : State) : Emits s (rxReset s) [] := emits_withRx s _

/-- An abort: the alarm of the rule and a cleared receiver. -/
theorem LockedStep.abort {st : RxState} {s t : State} (b : Byte) (h : Alarmed s t) : LockedStep st s b (rxReset t) where
  frame := h.frame.trans (rxReset_frame t)
  capture := .inl (h.captureKept.trans ⟨rfl, rfl⟩)
  packets := by
    obtain ⟨ps, hps, halarm⟩ := h.emits
    exact ⟨ps, [], hps.trans (rxReset_emits t), halarm, .inl (by simp)⟩
  rx := .inl (by rw [rxReset_rx, h.frame.cfg])

theorem frame_of_moved {t u : State} (h : Moved t u) : ReceiverFrame t u := by
  rw [h]
  exact ⟨rfl, rfl, rfl, rfl, rfl, rfl, id⟩

theorem emits_of_moved {t u : State} (h : Moved t u) : Emits t u [] := by
  rw [h]
  exact .nil rfl rfl rfl rfl

/-- Everything the end of a frame can do (rule R158): a cleared receiver, after the end-of-frame packets. -/
theorem endOfFrame_answer {s t : State} (h : endOfFrame s = .ok t) :
    ∃ v ps, t = rxReset v ∧ SameBlock s v ∧ Emits s v ps ∧ FrameEndPackets ps := by
  obtain ⟨v, rfl, ⟨-, hv⟩ | ⟨-, hv⟩⟩ := endOfFrame_ok h
  · obtain ⟨ps, hps, -, hk⟩ := dispatch_emits hv
    exact ⟨v, ps, rfl, dispatch_same hv, hps, .inl hk⟩
  · obtain ⟨p, hp, hk, hcode⟩ := raiseAlarm_emits hv
    exact ⟨v, [p], rfl, raiseAlarm_same hv, hp, .inr ⟨p, rfl, hk, hcode⟩⟩

theorem lockedByte_answer {st : RxState} {s t : State} {b : Byte} (hne : st ≠ .idle)
    (h : lockedByte (stateRule st) s b = .ok t) : LockedStep st s b t := by
  by_cases hov : s.rx.pos + 1 ≤ s.cfg.maxPacketSize
  · rw [lockedByte_of_no_overflow _ b hov, bind_eq_ok] at h
    obtain ⟨a, ha, hfin⟩ := h
    obtain ⟨v, hv, rfl | ⟨u, rfl, hmoved, hcapture, hnext⟩⟩ := stateRule_answer hne ha
    · cases hfin
      exact .abort b hv.of_withRx
    · replace hv : Alarmed s v := hv.of_withRx
      have hframe := hv.frame.trans (frame_of_moved hmoved)
      obtain ⟨ps, hps, halarm⟩ := hv.emits
      have hpackets := hps.then_nil (emits_of_moved hmoved)
      replace hcapture : CaptureKept s u ∨ st = .time := hcapture.imp_left hv.captureKept.trans
      by_cases hend : atFrameEnd u.rx = true
      · rw [finishByte, if_pos hend] at hfin
        obtain ⟨x, qs, rfl, hsame, hqs, hlast⟩ := endOfFrame_answer hfin
        exact ⟨(hframe.trans (.of_sameBlock hsame)).trans (rxReset_frame x),
          hcapture.imp_left fun hc => (hc.trans (.of_sameBlock hsame)).trans ⟨rfl, rfl⟩,
          ⟨ps, qs, (hpackets.trans hqs).then_nil (rxReset_emits x), halarm, hlast⟩,
          .inl (by rw [rxReset_rx, hsame.cfg, hframe.cfg])⟩
      · rw [finishByte_goesOn b (Bool.eq_false_iff.mpr hend)] at hfin
        cases hfin
        exact ⟨hframe.trans (.withRx u _), hcapture.imp_left fun hc => hc.trans ⟨rfl, rfl⟩,
          ⟨ps, [], hpackets.trans (emits_withRx u _), halarm, .inl (by simp)⟩,
          .inr ⟨hov, u.rx, hnext, Bool.eq_false_iff.mpr hend, rfl⟩⟩
  · rw [lockedByte_of_overflow _ b (by omega), bind_eq_ok] at h
    obtain ⟨u, hu, h⟩ := h
    cases h
    exact .abort b (Alarmed.of_alarm hu).of_withRx

/-! ### The step of IDLE -/

theorem idleByte_answer {s t : State} {b : Byte} (h : idleByte s b = .ok t) :
    t = s.withRx { s.rx with syncWin := shiftIn s.rx.syncWin b } ∨ metAdvance (s.withRx (rxSynced s.cfg)) = .ok t := by
  by_cases hs : syncFound (shiftIn s.rx.syncWin b) = true
  · rw [idleByte_syncs hs] at h
    exact .inr h
  · rw [idleByte_shifts hs] at h
    cases h
    exact .inl rfl

/-- The packets of a time advance (rule R205): none, or the Status that is due. -/
theorem metAdvance_emits {s t : State} (h : metAdvance s = .ok t) :
    Emits s t [] ∨ ∃ p, Emits s t [p] ∧ p.kind = .status := by
  have hcounted : Emits s (timeCounted s) [] := .nil rfl rfl rfl rfl
  rw [metAdvance_eq] at h
  split at h
  · rw [bind_eq_ok] at h
    obtain ⟨v, hv, h⟩ := h
    cases h
    obtain ⟨p, hp, hk⟩ := sendStatus_emits hv
    exact .inr ⟨p, (hcounted.after_nil hp).then_nil (.nil rfl rfl rfl rfl), hk⟩
  · cases h
    exact .inl hcounted

theorem idleByte_emits {s t : State} {b : Byte} (h : idleByte s b = .ok t) :
    Emits s t [] ∨ ∃ p, Emits s t [p] ∧ p.kind = .status := by
  obtain rfl | h := idleByte_answer h
  · exact .inl (emits_withRx s _)
  · have hsync := emits_withRx s (rxSynced s.cfg)
    exact (metAdvance_emits h).imp hsync.after_nil fun ⟨p, hp, hk⟩ => ⟨p, hsync.after_nil hp, hk⟩

/-! ### The step of one byte, in whatever state the receiver is -/

/-- RXBYTE answers by the rule of IDLE or by the step of a sync-locked state. -/
theorem exec_rxByte_next {s t : State} {b : Byte} (h : exec (rxByteInstr s.rx.rxState b) s = .next t) :
    (s.rx.rxState = .idle ∧ idleByte s b = .ok t) ∨ (s.rx.rxState ≠ .idle ∧ LockedStep s.rx.rxState s b t) := by
  by_cases hst : s.rx.rxState = .idle
  · rw [hst] at h
    exact .inl ⟨hst, (inRxState_next h).2⟩
  · rw [exec_rxByte_locked b rfl hst, toOutcome_eq_next] at h
    exact .inr ⟨hst, lockedByte_answer hst h⟩

/-- Settles O55: the packets of IDLE's rule, or those of a sync-locked step in their order. -/
theorem packetsOfOneByteInOrder : Obligations.PacketsOfOneByteInOrder := by
  intro s t b h
  obtain ⟨hst, hidle⟩ | ⟨hst, hlocked⟩ := exec_rxByte_next h
  · obtain hnone | ⟨p, hp, hk⟩ := idleByte_emits hidle
    · exact ⟨[], hnone.outbound, fun _ => .inl rfl, fun hne => absurd hst hne⟩
    · exact ⟨[p], hp.outbound, fun _ => .inr ⟨p, rfl, hk⟩, fun hne => absurd hst hne⟩
  · obtain ⟨first, last, hemits, hfirst, hlast⟩ := hlocked.packets
    exact ⟨first ++ last, hemits.outbound, fun he => absurd he hst, fun _ => ⟨first, last, rfl, hfirst, hlast⟩⟩

theorem idleByte_rxState {s t : State} {b : Byte} (hst : s.rx.rxState = .idle) (h : idleByte s b = .ok t) :
    t.rx.rxState = .idle ∨ t.rx.rxState = .length := by
  obtain rfl | h := idleByte_answer h
  · exact .inl hst
  · obtain ⟨-, hrx, -⟩ := metAdvance_frame h
    rw [hrx]
    exact .inr rfl

/-- A sync-locked step moves along the transitions of its rule, or back to IDLE. -/
theorem LockedStep.goesOnTo_or_idle {st : RxState} {s t : State} {b : Byte} (hst : s.rx.rxState = st)
    (h : LockedStep st s b t) : GoesOnTo st t.rx.rxState ∨ t.rx.rxState = .idle := by
  obtain hcleared | ⟨-, rx', hnext, -, hrx⟩ := h.rx
  · exact .inr (by rw [hcleared]; rfl)
  · have hgoes := ruleNext_goesOnTo (rx := (countByte s b).rx) hst hnext
    exact .inl (by rwa [hrx])

/-- Settles O56: the transitions of the rules, or back to IDLE. -/
theorem receiverStateGraph : Obligations.ReceiverStateGraph := by
  intro s t b h
  obtain ⟨hst, hidle⟩ | ⟨hst, hlocked⟩ := exec_rxByte_next h
  · rw [hst]
    exact idleByte_rxState hst hidle
  · have hmoves := hlocked.goesOnTo_or_idle rfl
    cases hs : s.rx.rxState with
    | idle => exact absurd hs hst
    | length | time | cmdStart | cmd => simpa [hs, GoesOnTo, or_assoc] using hmoves
    | timeStart =>
      rw [hs] at hmoves
      rintro hl
      simp [GoesOnTo, hl] at hmoves

/-- Settles O57: a sync-locked step leaves time alone; in IDLE only a sync moves it, and then the state is LENGTH. -/
theorem timeMovesOnlyAtASync : Obligations.TimeMovesOnlyAtASync := by
  intro s t b h
  obtain ⟨hst, hidle⟩ | ⟨hst, hlocked⟩ := exec_rxByte_next h
  · refine ⟨fun hne => absurd hst hne, fun _ hstays => ?_, fun hne => absurd hst hne⟩
    obtain rfl | hsync := idleByte_answer hidle
    · rfl
    · obtain ⟨-, hrx, -⟩ := metAdvance_frame hsync
      rw [hrx] at hstays
      cases hstays
  · exact ⟨fun _ => ⟨hlocked.frame.met, hlocked.frame.sic⟩, fun he => absurd he hst, fun _ => hlocked.capture.resolve_right⟩

/-! ### The last byte of a frame (rule R158) -/

/-- The state with `len_ok` and `last` set to other values, which no state rule but LENGTH's reads or writes. -/
def retagged (x : Bool) (l : Byte) (s : State) : State := s.withRx { s.rx with lenOk := x, last := l }

/-- An answer with its state retagged; after an abort the receiver is cleared anyway. -/
def retaggedAfter (x : Bool) (l : Byte) : After → After
  | .aborted s => .aborted s
  | .goesOn s => .goesOn (retagged x l s)

theorem ite_map {α : Type} {g : α → α} {p : Prop} [Decidable p] {a a' c c' : Res α} (ha : a' = a.map g)
    (hc : c' = c.map g) : (if p then a' else c') = (if p then a else c).map g := by
  split
  · exact ha
  · exact hc

theorem bind_map {α β : Type} {g : α → α} {g' : β → β} {r r' : Res α} {f f' : α → Res β} (hr : r' = r.map g)
    (hf : ∀ u, f' (g u) = (f u).map g') : (r' >>= f') = (r >>= f).map g' := by
  subst hr
  cases r with
  | ok u => exact hf u
  | error e => rfl

theorem bind_same_map {α β : Type} {g' : β → β} (r : Res α) {f f' : α → Res β} (hf : ∀ u, f' u = (f u).map g') :
    (r >>= f') = (r >>= f).map g' := by
  cases r with
  | ok u => exact hf u
  | error e => rfl

section
variable (x : Bool) (l : Byte)

/-! Each operation below answers the retagged state when it is run on the retagged state. -/

theorem waitDrained_retagged (s : State) : waitDrained (retagged x l s) = (waitDrained s).map (retagged x l) := by
  by_cases hc : s.CanSend
  · rw [waitDrained_eq hc, waitDrained_eq (s := retagged x l s) hc]
    rfl
  · rw [waitDrained_held hc, waitDrained_held (s := retagged x l s) hc]
    rfl

theorem writeOutbuf_retagged (bytes : List Byte) (s : State) :
    writeOutbuf (retagged x l s) bytes = (writeOutbuf s bytes).map (retagged x l) := ite_map rfl rfl

theorem send_retagged (kind : PacketKind) (apid : BitVec 11) (total : Nat) (payload : List Byte) (s : State) :
    send (retagged x l s) kind apid total payload = (send s kind apid total payload).map (retagged x l) :=
  bind_map (waitDrained_retagged x l (seqAdvance s)) fun u =>
    bind_map (writeOutbuf_retagged x l (buildPacket u apid total payload) u) fun _ => rfl

theorem raiseAlarm_retagged (code : AlarmCode) (s : State) :
    raiseAlarm (retagged x l s) code = (raiseAlarm s code).map (retagged x l) := send_retagged x l _ _ _ _ s

theorem sendEcho_retagged (opcode : Byte) (args : List Byte) (result : Byte) (s : State) :
    sendEcho (retagged x l s) opcode args result = (sendEcho s opcode args result).map (retagged x l) :=
  ite_map (bind_map (send_retagged x l _ _ _ _ s) fun _ => rfl) rfl

theorem recordWrite_retagged (j : Nat) (r : CmdRecord) (s : State) :
    recordWrite (retagged x l s) j r = (recordWrite s j r).map (retagged x l) := ite_map rfl rfl

theorem scratchWrite_retagged (i : Nat) (v : Byte) (s : State) :
    scratchWrite (retagged x l s) i v = (scratchWrite s i v).map (retagged x l) := ite_map rfl rfl

theorem abortWith_retagged (code : AlarmCode) (s : State) :
    abortWith (retagged x l s) code = (abortWith s code).map (retaggedAfter x l) :=
  bind_map (raiseAlarm_retagged x l code s) fun _ => rfl

theorem alarmToCmdStart_retagged (code : AlarmCode) (s : State) :
    alarmToCmdStart (retagged x l s) code = (alarmToCmdStart s code).map (retaggedAfter x l) :=
  bind_map (raiseAlarm_retagged x l code s) fun _ => rfl

theorem beginCommand_retagged (c0 : Word) (s : State) :
    beginCommand (retagged x l s) c0 = (beginCommand s c0).map (retaggedAfter x l) :=
  ite_map (abortWith_retagged x l .itfLength s) rfl

theorem firstHeader_retagged (s : State) : firstHeader (retagged x l s) = (firstHeader s).map (retaggedAfter x l) :=
  ite_map rfl (ite_map (beginCommand_retagged x l 4 s) (alarmToCmdStart_retagged x l _ s))

theorem timeStartRule_retagged (b : Byte) (w : Word) (s : State) :
    timeStartRule (retagged x l s) b w = (timeStartRule s b w).map (retaggedAfter x l) :=
  ite_map rfl (ite_map (firstHeader_retagged x l s) rfl)

theorem timeBytes_retagged (b : Byte) (s : State) : timeBytes (retagged x l s) b = retagged x l (timeBytes s b) := by
  by_cases h18 : s.rx.pos = 18
  · rw [timeBytes_at_18 b h18, timeBytes_at_18 (s := retagged x l s) b h18]
    rfl
  · rw [timeBytes_before_18 b h18, timeBytes_before_18 (s := retagged x l s) b h18]
    rfl

theorem timeEnd_retagged (s : State) : timeEnd (retagged x l s) = (timeEnd s).map (retaggedAfter x l) :=
  ite_map (bind_map (raiseAlarm_retagged x l .ccsdsFormat s) fun _ => rfl) rfl

theorem timeRule_retagged (b : Byte) (w : Word) (s : State) :
    timeRule (retagged x l s) b w = (timeRule s b w).map (retaggedAfter x l) :=
  ite_map rfl (ite_map (alarmToCmdStart_retagged x l _ s) (ite_map
    (congrArg (fun u => Except.ok (After.goesOn u)) (timeBytes_retagged x l b s))
    (ite_map (ite_map (timeEnd_retagged x l (reservedTested s b)) rfl) rfl)))

theorem cmdStartRule_retagged (b : Byte) (w : Word) (s : State) :
    cmdStartRule (retagged x l s) b w = (cmdStartRule s b w).map (retaggedAfter x l) :=
  ite_map (beginCommand_retagged x l 2 (idleCounted s))
    (ite_map (bind_map (raiseAlarm_retagged x l _ (idleCounted s)) fun _ => rfl) rfl)

theorem clearPredecessorCount_retagged (s : State) :
    clearPredecessorCount (retagged x l s) = (clearPredecessorCount s).map (retagged x l) :=
  ite_map (bind_same_map (recordRead s (s.rx.cmdK - 1)) fun _ => recordWrite_retagged x l _ _ s) rfl

theorem excise_retagged (s : State) : excise (retagged x l s) = (excise s).map (retagged x l) :=
  bind_map (recordWrite_retagged x l _ _ s) fun u => bind_map (clearPredecessorCount_retagged x l u) fun _ => rfl

theorem cmdLengthCheck_retagged (w : Word) (s : State) :
    cmdLengthCheck (retagged x l s) w = (cmdLengthCheck s w).map (retaggedAfter x l) :=
  ite_map (bind_map (raiseAlarm_retagged x l _ s) fun u => bind_map (excise_retagged x l u) fun _ => rfl) rfl

theorem completeCommand_retagged (s : State) :
    completeCommand (retagged x l s) = (completeCommand s).map (retaggedAfter x l) :=
  ite_map (bind_map (recordWrite_retagged x l _ _ s) fun _ => rfl) rfl

theorem cmdBody_retagged (b : Byte) (s : State) : cmdBody (retagged x l s) b = (cmdBody s b).map (retaggedAfter x l) :=
  ite_map (ite_map (abortWith_retagged x l _ s)
    (bind_map (scratchWrite_retagged x l _ b s) fun u =>
      completeCommand_retagged x l (u.withRx { u.rx with wp := u.rx.wp + 1 })))
    (completeCommand_retagged x l s)

theorem cmdRule_retagged (b : Byte) (w : Word) (s : State) :
    cmdRule (retagged x l s) b w = (cmdRule s b w).map (retaggedAfter x l) :=
  ite_map (cmdLengthCheck_retagged x l w (cmdCounted s)) (ite_map (cmdBody_retagged x l b (cmdCounted s)) rfl)

theorem stateRule_retagged {st : RxState} (hi : st ≠ .idle) (hl : st ≠ .length) (b : Byte) (w : Word) (s : State) :
    stateRule st (retagged x l s) b w = (stateRule st s b w).map (retaggedAfter x l) := by
  cases st with
  | idle => exact absurd rfl hi
  | length => exact absurd rfl hl
  | timeStart => exact timeStartRule_retagged x l b w s
  | time => exact timeRule_retagged x l b w s
  | cmdStart => exact cmdStartRule_retagged x l b w s
  | cmd => exact cmdRule_retagged x l b w s

theorem scratchReads_retagged (n i : Nat) (s : State) : scratchReads (retagged x l s) i n = scratchReads s i n := by
  induction n generalizing i with
  | zero => rfl
  | succ n ih =>
    simp only [scratchReads, ih]
    rfl

theorem echoRecord_retagged (j : Nat) (s : State) :
    echoRecord (retagged x l s) j = (echoRecord s j).map (retagged x l) := by
  refine bind_same_map (recordRead s j) fun r => bind_same_map (scratchRead s r.off.toNat) fun opcode => ?_
  rw [scratchReads_retagged]
  exact bind_same_map _ fun args => sendEcho_retagged x l opcode args 0 s

theorem echoRecords_retagged (n j : Nat) (s : State) :
    echoRecords n j (retagged x l s) = (echoRecords n j s).map (retagged x l) := by
  induction n generalizing j s with
  | zero => rfl
  | succ n ih => exact bind_map (echoRecord_retagged x l j s) (ih (j + 1))

theorem dispatch_retagged (s : State) : dispatch (retagged x l s) = (dispatch s).map (retagged x l) :=
  echoRecords_retagged x l s.rx.cmdK 0 s

end

theorem map_eq_ok {α : Type} {g : α → α} {r : Res α} {u : α} (h : r.map g = .ok u) : ∃ v, r = .ok v ∧ u = g v := by
  cases r with
  | ok v => exact ⟨v, rfl, (Except.ok.inj h).symm⟩
  | error e => cases h

/-- A step with `len_ok` clear, in a later state than LENGTH: the state rule answers the same with `len_ok` as it stands. -/
theorem lockedByte_of_lenOk_cleared {st : RxState} (hi : st ≠ .idle) (hl : st ≠ .length) {s u : State} {b : Byte}
    (ht : s.crcTable = builtCrcTable) (hov : s.rx.pos + 1 ≤ s.cfg.maxPacketSize)
    (h : lockedByte (stateRule st) (retagged false s.rx.last s) b = .ok u) :
    stateRule st (taken s b) b (window s.rx b) = .ok (.aborted u) ∨
      ∃ v, stateRule st (taken s b) b (window s.rx b) = .ok (.goesOn v) ∧ u = retagged false b v := by
  have hrule := stateRule_retagged false s.rx.last hi hl b (window s.rx b) (taken s b)
  rw [lockedByte_of_no_overflow (s := retagged false s.rx.last s) _ b hov,
    countByte_eq_taken (s := retagged false s.rx.last s) b ht] at h
  obtain ⟨a', ha', hfin⟩ := bind_eq_ok.mp h
  obtain ⟨a, ha, rfl⟩ := map_eq_ok (hrule.symm.trans ha')
  cases a with
  | aborted v =>
    cases hfin
    exact .inl ha
  | goesOn v =>
    have hend : atFrameEnd (retagged false s.rx.last v).rx = false := rfl
    rw [retaggedAfter, finishByte_goesOn b hend] at hfin
    cases hfin
    exact .inr ⟨v, ha, rfl⟩

/-- A state rule that goes on at the last byte of the frame: EndOfFrame follows (rule R158). -/
theorem exec_of_rule_ends {st : RxState} (hi : st ≠ .idle) (hl : st ≠ .length) {s v : State} {b : Byte}
    (hst : s.rx.rxState = st) (ht : s.crcTable = builtCrcTable) (hov : s.rx.pos + 1 ≤ s.cfg.maxPacketSize)
    (hlen : s.rx.lenOk = true) (hend : s.rx.pos + 1 = s.rx.frameEnd.toNat)
    (hrule : stateRule st (taken s b) b (window s.rx b) = .ok (.goesOn v)) :
    exec (rxByteInstr st b) s = toOutcome (endOfFrame v) ∧ v.rx.crc = refCrcByte s.rx.crc b ∧ v.rx.rxState ≠ .idle := by
  obtain ⟨t, -, habs | ⟨u, hu, -, -, hnext⟩⟩ := stateRule_answer hi hrule
  · cases habs
  cases hu
  obtain ⟨hpos, hcrc, hkept⟩ := ruleNext_kept hnext
  obtain ⟨hlen', hend'⟩ := hkept hl
  have hat : atFrameEnd v.rx = true := by
    rw [atFrameEnd, hlen', hend', hpos]
    exact Bool.and_eq_true_iff.mpr ⟨hlen, decide_eq_true hend⟩
  refine ⟨?_, hcrc, (ruleNext_goesOnTo (rx := (taken s b).rx) hst hnext).ne_idle⟩
  rw [exec_rxByte_locked b hst hi, lockedByte_of_no_overflow _ b hov, countByte_eq_taken b ht, hrule, ok_bind, finishByte,
    if_pos hat]

/-- Settles O46: the state rule is the same with `len_ok` set, and what it goes on with then ends the frame. -/
theorem endOfFrameFollowsTheStateRule : Obligations.EndOfFrameFollowsTheStateRule := by
  intro s u b hr hi hl hlen hend hov hu
  replace hu := toOutcome_eq_next.mp ((exec_rxByte_locked (s := retagged false s.rx.last s) b rfl hi).symm.trans hu)
  obtain habs | ⟨v, hrule, rfl⟩ := lockedByte_of_lenOk_cleared hi hl hr.2 hov hu
  · have hidle : u.rx.rxState = .idle := by
      obtain ⟨t, -, ha | ⟨_, ha, -⟩⟩ := stateRule_answer hi habs
      · cases ha
        rfl
      · cases ha
    exact ⟨fun _ => exec_of_rule_aborts rfl hi hr.2 hov habs, fun hne => absurd hidle hne, fun hne => absurd hidle hne⟩
  · obtain ⟨hexec, hcrc, hne⟩ := exec_of_rule_ends hi hl rfl hr.2 hov hlen hend hrule
    obtain ⟨t, ht, habs | ⟨w, hw, hmoved, -⟩⟩ := stateRule_answer hi hrule
    · cases habs
    cases hw
    have hframe := ht.frame.trans (frame_of_moved hmoved)
    have hready : v.Ready := ⟨hframe.drains hr.1, hframe.crcTable.trans hr.2⟩
    refine ⟨fun hidle => absurd hidle hne, fun _ hbad => ?_, fun _ hzero y hy => ?_⟩
    · have hres : ¬ crcResiduePass v.rx.crc = true := by rwa [hcrc, crcResiduePass, decide_eq_true_eq]
      rw [hexec, endOfFrame, frameVerdict, if_neg hres, raiseAlarm_eq_afterAlarm hready.2 (ready_canSend hready)]
      rfl
    · have hres : crcResiduePass v.rx.crc = true := by rw [hcrc, crcResiduePass, hzero, decide_eq_true rfl]
      obtain ⟨y', hy', rfl⟩ := map_eq_ok ((dispatch_retagged false b v).symm.trans (toOutcome_eq_next.mp hy))
      rw [hexec, endOfFrame, frameVerdict, if_pos hres, hy', ok_bind]
      rfl

end Sys2Proof.Proofs.ByteSteps
end

section
/-! The machine: the operation that a step runs, everything an operation that answers a next state can have done, and what every
operation and every step keep. -/

namespace Sys2Proof.Proofs.MachineSteps

open Sys2Proof.Machine Sys2Proof.Proofs.Engine Sys2Proof.Proofs.Decoding Sys2Proof.Proofs.Sends
  Sys2Proof.Proofs.FrameBytes Sys2Proof.Proofs.ByteAnswers Sys2Proof.Proofs.ByteSteps

/-! ### The operation of a step (rules R21, R96) -/

theorem runOperation_of_decode {o : Operation} {i : Instr} (h : decode o = .ok i) (s : State) :
    runOperation o s = exec i s := by
  simp [runOperation, h]

theorem step_of_item {s : State} {item : PortItem} {rest : List PortItem} (hp : s.probe = none)
    (hi : s.inbound = item :: rest) : step s = runOperation (portOperation s.rx.rxState item) (s.withInbound rest) := by
  simp [step, hp, hi]

theorem step_of_probe {s : State} {o : Operation} (hp : s.probe = some o) :
    step s = runOperation o (s.withProbe none) := by
  simp [step, hp]

theorem decode_portOperation_byte (st : RxState) (b : Byte) :
    decode (portOperation st (.byte b)) = .ok (rxByteInstr st b) := decode_rxByteWord st b

theorem decode_portOperation_reset (st : RxState) : decode (portOperation st .reset) = .ok .reset :=
  decodeOfEncodeGivesTheOperation .reset rfl

/-- Settles O47: the two cases of the step that run an operation. -/
theorem stepRunsTheDecodedOperation : Obligations.StepRunsTheDecodedOperation := by
  refine ⟨fun s item rest i hp hi hd => ?_, fun s o i hp hd => ?_⟩
  · rw [step_of_item hp hi, runOperation_of_decode hd]
    rfl
  · rw [step_of_probe hp, runOperation_of_decode hd]
    rfl

/-- Settles O48: what the operation words of a byte and of a Reset decode to. -/
theorem stepConsumesAnInboundByte : Obligations.StepConsumesAnInboundByte := by
  refine ⟨fun s b rest hp hi => ?_, fun s rest hp hi => ?_, fun s hp hi => ?_⟩
  · exact stepRunsTheDecodedOperation.1 s _ rest _ hp hi (decode_portOperation_byte ..)
  · exact stepRunsTheDecodedOperation.1 s _ rest _ hp hi (decode_portOperation_reset ..)
  · simp [step, hp, hi]

/-! ### What an operation can have done -/

/-- The state after RESET (rules R280, R281). -/
def afterReset (s : State) : State :=
  { s with
    rx := rxCleared s.cfg
    inst := instrumentPowerOn
    crcTable := builtCrcTable
    link := { s.link with outbuf := outbufUnspecified s.freeCount, outbound := [], inFlight := false }
    freeCount := s.freeCount + 1 }

theorem exec_reset (s : State) : exec .reset s = .next (afterReset s) := rfl

/-- The operations that send packets and do nothing else. -/
def OnlySends : Instr → Prop
  | .dispatch | .sendStatus | .sendEcho _ _ _ | .sendAlarm _ => True
  | _ => False

/-- `i` answers `t` in the state `s`: all the ways in which that happens, one for each kind of operation. -/
inductive Executed (s : State) : Instr → State → Prop
  | idle {t : State} (b : Byte) (hst : s.rx.rxState = .idle) (h : idleByte s b = .ok t) : Executed s (.rxByteIdle b) t
  | locked {t : State} (b : Byte) (hst : s.rx.rxState ≠ .idle) (h : LockedStep s.rx.rxState s b t) :
      Executed s (rxByteInstr s.rx.rxState b) t
  | sends {t : State} {i : Instr} (hi : OnlySends i) (hsame : SameBlock s t) (ps : List Packet) (h : Emits s t ps) :
      Executed s i t
  | metAdvance {t : State} (h : metAdvance s = .ok t) : Executed s .metAdvance t
  | reset : Executed s .reset (afterReset s)
  | rxReset : Executed s .rxReset (rxReset s)
  | buildTable : Executed s .buildTable (s.withCrcTable builtCrcTable)
  | crcUpdate (c : Word) (b : Byte) (r : Returned) : Executed s (.crcUpdate c b) (s.withReturned r)
  | crcResidueCheck (c : Word) (r : Returned) : Executed s (.crcResidueCheck c) (s.withReturned r)
  | seqAdvance : Executed s .seqAdvance (seqAdvance s)
  | seqReset : Executed s .seqReset (seqReset s)
  | hbToggle : Executed s .hbToggle (hbToggle s)
  | pwrToggle : Executed s .pwrToggle (pwrToggle s)

theorem rxState_of_exec_rxByte {st : RxState} {b : Byte} {s t : State} (h : exec (rxByteInstr st b) s = .next t) :
    s.rx.rxState = st := by
  cases st <;> exact (inRxState_next h).1

theorem executed_rxByte {st : RxState} {b : Byte} {s t : State} (h : exec (rxByteInstr st b) s = .next t) :
    Executed s (rxByteInstr st b) t := by
  obtain rfl := rxState_of_exec_rxByte h
  obtain ⟨hst, hidle⟩ | ⟨hst, hlocked⟩ := exec_rxByte_next h
  · rw [hst]
    exact .idle b hst hidle
  · exact .locked b hst hlocked

theorem exec_next {i : Instr} {s t : State} (h : exec i s = .next t) : Executed s i t := by
  cases i with
  | rxByteIdle b => exact executed_rxByte (st := .idle) h
  | rxByteLength b => exact executed_rxByte (st := .length) h
  | rxByteTimeStart b => exact executed_rxByte (st := .timeStart) h
  | rxByteTime b => exact executed_rxByte (st := .time) h
  | rxByteCmdStart b => exact executed_rxByte (st := .cmdStart) h
  | rxByteCmd b => exact executed_rxByte (st := .cmd) h
  | dispatch =>
    have hd := toOutcome_eq_next.mp h
    obtain ⟨ps, hps, -⟩ := dispatch_emits hd
    exact .sends trivial (dispatch_same hd) ps hps
  | sendStatus =>
    have hd := toOutcome_eq_next.mp h
    obtain ⟨p, hp, -⟩ := sendStatus_emits hd
    exact .sends trivial (sendStatus_same hd) [p] hp
  | sendEcho opcode args result =>
    have hd := toOutcome_eq_next.mp h
    obtain ⟨p, hp, -⟩ := sendEcho_emits hd
    exact .sends trivial (sendEcho_same hd) [p] hp
  | sendAlarm code =>
    have hd := toOutcome_eq_next.mp h
    obtain ⟨p, hp, -⟩ := raiseAlarm_emits hd
    exact .sends trivial (raiseAlarm_same hd) [p] hp
  | metAdvance => exact .metAdvance (toOutcome_eq_next.mp h)
  | reset => cases h; exact .reset
  | rxReset => cases h; exact .rxReset
  | buildTable => cases h; exact .buildTable
  | crcUpdate c b => cases h; exact .crcUpdate c b _
  | crcResidueCheck c => cases h; exact .crcResidueCheck c _
  | seqAdvance => cases h; exact .seqAdvance
  | seqReset => cases h; exact .seqReset
  | hbToggle => cases h; exact .hbToggle
  | pwrToggle => cases h; exact .pwrToggle

/-! ### What every operation keeps -/

/-- What no operation writes (rules R28, R283), and the table and the transport once they are as rule R283 asks. -/
structure MachineFrame (s t : State) : Prop where
  cfg : t.cfg = s.cfg
  inbound : t.inbound = s.inbound
  probe : t.probe = s.probe
  crcTable : s.crcTable = builtCrcTable → t.crcTable = builtCrcTable
  drains : s.link.drains = none → t.link.drains = none

theorem metAdvance_machineFrame {s t : State} (h : metAdvance s = .ok t) : MachineFrame s t := by
  obtain ⟨hcfg, -, htable, hin, -, hprobe, -, -, -, hdrains⟩ := metAdvance_frame h
  exact ⟨hcfg, hin, hprobe, htable.trans, hdrains⟩

theorem idleByte_machineFrame {s t : State} {b : Byte} (h : idleByte s b = .ok t) : MachineFrame s t := by
  obtain rfl | h := idleByte_answer h
  · exact ⟨rfl, rfl, rfl, id, id⟩
  · obtain ⟨hcfg, hin, hprobe, htable, hdrains⟩ := metAdvance_machineFrame h
    exact ⟨hcfg, hin, hprobe, htable, hdrains⟩

theorem Executed.machineFrame {s t : State} {i : Instr} (h : Executed s i t) : MachineFrame s t := by
  cases h with
  | idle b hst h => exact idleByte_machineFrame h
  | locked b hst h =>
    exact ⟨h.frame.cfg, h.frame.inbound, h.frame.probe, h.frame.crcTable.trans, h.frame.drains⟩
  | sends hi hsame ps h => exact ⟨hsame.cfg, hsame.inbound, hsame.probe, hsame.crcTable.trans, hsame.drains⟩
  | metAdvance h => exact metAdvance_machineFrame h
  | reset | buildTable => exact ⟨rfl, rfl, rfl, fun _ => rfl, id⟩
  | rxReset | crcUpdate c b r | crcResidueCheck c r | seqAdvance | seqReset | hbToggle | pwrToggle =>
    exact ⟨rfl, rfl, rfl, id, id⟩

/-- A step is no step at all, or an operation from the state with its item or its word taken away. -/
theorem step_next {s t : State} (h : step s = .next t) :
    t = s ∨ (∃ o i, s.probe = some o ∧ Executed (s.withProbe none) i t) ∨
      ∃ item rest i, s.probe = none ∧ s.inbound = item :: rest ∧
        decode (portOperation s.rx.rxState item) = .ok i ∧ Executed (s.withInbound rest) i t := by
  cases hp : s.probe with
  | some o =>
    rw [step_of_probe hp, runOperation] at h
    split at h
    · exact .inr (.inl ⟨o, _, rfl, exec_next h⟩)
    · cases h
  | none =>
    cases hi : s.inbound with
    | nil =>
      rw [stepConsumesAnInboundByte.2.2 s hp hi] at h
      cases h
      exact .inl rfl
    | cons item rest =>
      rw [step_of_item hp hi, runOperation] at h
      split at h
      · rename_i i hd
        exact .inr (.inr ⟨item, rest, i, rfl, rfl, hd, exec_next h⟩)
      · cases h

/-- Settles O59: no operation writes the parameters, and none but RESET and BUILDTABLE the table. -/
theorem parametersAndTableAreFixed : Obligations.ParametersAndTableAreFixed := by
  intro s t h
  obtain rfl | ⟨o, i, -, hex⟩ | ⟨item, rest, i, -, -, -, hex⟩ := step_next h
  · exact ⟨rfl, id⟩
  · exact ⟨hex.machineFrame.cfg, hex.machineFrame.crcTable⟩
  · exact ⟨hex.machineFrame.cfg, hex.machineFrame.crcTable⟩

/-! ### What every operation sends -/

theorem lockedStep_emits {st : RxState} {s t : State} {b : Byte} (h : LockedStep st s b t) : ∃ ps, Emits s t ps := by
  obtain ⟨first, last, h, -⟩ := h.packets
  exact ⟨_, h⟩

theorem emits_of_none_or_one {s t : State} {k : PacketKind} (h : Emits s t [] ∨ ∃ p, Emits s t [p] ∧ p.kind = k) :
    ∃ ps, Emits s t ps := by
  obtain h | ⟨p, h, -⟩ := h
  · exact ⟨_, h⟩
  · exact ⟨_, h⟩

/-- Settles O22: PWRTOGGLE sends nothing, and every other operation but the exceptions counts what it sends. -/
theorem everyPacketIsCounted : Obligations.EveryPacketIsCounted := by
  intro i s t hreset hadvance hseqReset htoggle h
  have hcounted : (∃ ps, Emits s t ps) → ∃ ps, t.link.outbound = s.link.outbound ++ ps ∧
      t.inst.seq = BitVec.ofNat 14 (s.inst.seq.toNat + ps.length) ∧
      t.inst.hb = (s.inst.hb != decide (heartbeats (ps.map Packet.kind) % 2 = 1)) := by
    rintro ⟨ps, hps⟩
    exact ⟨ps, hps.outbound, by rw [hps.seq, seq_add_ofNat], hps.hb⟩
  cases exec_next h with
  | idle b hst h => exact hcounted (emits_of_none_or_one (idleByte_emits h))
  | locked b hst h => exact hcounted (lockedStep_emits h)
  | sends hi hsame ps h => exact hcounted ⟨ps, h⟩
  | metAdvance h => exact hcounted (emits_of_none_or_one (metAdvance_emits h))
  | reset => exact absurd rfl hreset
  | seqAdvance => exact absurd rfl hadvance
  | seqReset => exact absurd rfl hseqReset
  | hbToggle => exact absurd rfl htoggle
  | rxReset | buildTable | crcUpdate c b r | crcResidueCheck c r => exact hcounted ⟨[], .nil rfl rfl rfl rfl⟩
  | pwrToggle =>
    refine ⟨[], (List.append_nil _).symm, ?_, (Bool.bne_false _).symm⟩
    rw [← seq_add_ofNat]
    exact (BitVec.add_zero _).symm

/-- The power bit and bit 6 of byte 4 of every outbound packet are clear (rule R203). -/
def PowerClear (s : State) : Prop :=
  s.inst.pw = false ∧ ∀ p ∈ s.link.outbound, (p.bytes.getD 4 0).getLsbD 6 = false

theorem powerClear_of_emits {s t : State} {ps : List Packet} (hs : PowerClear s) (h : Emits s t ps) : PowerClear t := by
  obtain ⟨hpw, hbits⟩ := hs
  refine ⟨h.pw.trans hpw, fun p hp => ?_⟩
  rw [h.outbound] at hp
  obtain hp | hp := List.mem_append.mp hp
  · exact hbits p hp
  · exact (h.powerBits p hp).trans hpw

theorem exec_rxByte_emits {s t : State} {b : Byte} (h : exec (rxByteInstr s.rx.rxState b) s = .next t) :
    ∃ ps, Emits s t ps := by
  obtain ⟨-, h⟩ | ⟨-, h⟩ := exec_rxByte_next h
  · exact emits_of_none_or_one (idleByte_emits h)
  · exact lockedStep_emits h

/-- Settles O58: an inbound byte's packets carry the power bit as it stands, and RESET leaves no packet. -/
theorem powerBitStaysClear : Obligations.PowerBitStaysClear := by
  intro s t hp hpw hbits h
  obtain ⟨hbyte, hreset, hnone⟩ := stepConsumesAnInboundByte
  cases hi : s.inbound with
  | nil =>
    rw [hnone s hp hi] at h
    cases h
    exact ⟨hpw, hbits⟩
  | cons item rest =>
    cases item with
    | byte b =>
      rw [hbyte s b rest hp hi] at h
      obtain ⟨ps, hps⟩ := exec_rxByte_emits (s := { s with inbound := rest }) h
      exact powerClear_of_emits (s := { s with inbound := rest }) ⟨hpw, hbits⟩ hps
    | reset =>
      rw [hreset s rest hp hi, exec_reset] at h
      cases h
      exact ⟨rfl, by simp [afterReset]⟩

/-! ### Runs and RESET -/

theorem run_succ {k : Nat} {s t : State} (h : Host.Core.run core (k + 1) s = .next t) :
    ∃ u : State, step s = .next u ∧ Host.Core.run core k u = .next t := by
  simp only [Host.Core.run] at h
  split at h
  · rename_i u hu
    exact ⟨u, hu, h⟩
  · cases h
  · cases h

theorem run_of_step {k : Nat} {s u : State} (h : step s = .next u) :
    Host.Core.run core (k + 1) s = Host.Core.run core k u := by
  have hstep : core.step s = .next u := h
  simp only [Host.Core.run, hstep]

theorem step_keeps_probe_none {s t : State} (hp : s.probe = none) (h : step s = .next t) : t.probe = none := by
  obtain rfl | ⟨o, i, hsome, -⟩ | ⟨item, rest, i, -, -, -, hex⟩ := step_next h
  · exact hp
  · rw [hp] at hsome
    cases hsome
  · exact hex.machineFrame.probe.trans hp

/-- The next step of a state with no word named to the model. -/
theorem step_of_port {t : State} (hp : t.probe = none) :
    (∃ b rest, t.inbound = .byte b :: rest ∧ step t = exec (rxByteInstr t.rx.rxState b) { t with inbound := rest }) ∨
      (∃ rest, t.inbound = .reset :: rest ∧ step t = exec .reset { t with inbound := rest }) ∨
      t.inbound = [] ∧ step t = .next t := by
  obtain ⟨hbyte, hreset, hnone⟩ := stepConsumesAnInboundByte
  cases hi : t.inbound with
  | nil => exact .inr (.inr ⟨rfl, hnone t hp hi⟩)
  | cons item rest =>
    cases item with
    | byte b => exact .inl ⟨b, rest, rfl, hbyte t b rest hp hi⟩
    | reset => exact .inr (.inl ⟨rest, rfl, hreset t rest hp hi⟩)

/-- Settles O49, by induction on the number of steps: no step names a word. -/
theorem onlyBytesAndResetReachTheBlock : Obligations.OnlyBytesAndResetReachTheBlock := by
  intro k
  induction k with
  | zero =>
    intro s t hp h
    cases h
    exact ⟨hp, step_of_port hp⟩
  | succ k ih =>
    intro s t hp h
    obtain ⟨u, hu, h⟩ := run_succ h
    exact ih u t (step_keeps_probe_none hp hu) h

/-- Settles O50: field by field, the state that RESET writes. -/
theorem resetResult : Obligations.ResetResult := fun s =>
  ⟨afterReset s, exec_reset s, rfl, rfl, rfl, rfl, rfl, rfl, rfl, rfl, rfl, rfl, rfl, rfl, rfl, rfl, rfl, rfl⟩

end Sys2Proof.Proofs.MachineSteps
end

section
/-! The invariant of the machine's states: what the receiver's registers satisfy, kept by every rule that goes on (rules R140 to
R157), and from there by every operation and every step. -/

namespace Sys2Proof.Proofs.Invariant

open Sys2Proof.Machine Sys2Proof.Proofs.Receiver Sys2Proof.Proofs.Telemetry Sys2Proof.Proofs.Sends
  Sys2Proof.Proofs.FrameBytes Sys2Proof.Proofs.CommandBytes Sys2Proof.Proofs.ByteAnswers Sys2Proof.Proofs.ByteSteps
  Sys2Proof.Proofs.MachineSteps

/-! ### The records of a receiver, by index -/

theorem forall_mem_take_iff {α : Type} {l : List α} {k : Nat} {P : α → Prop} :
    (∀ r ∈ l.take k, P r) ↔ ∀ j, j < k → ∀ r, l[j]? = some r → P r := by
  constructor
  · intro h j hj r hr
    refine h r (List.mem_of_getElem? (i := j) ?_)
    rw [List.getElem?_take, if_pos hj, hr]
  · intro h r hr
    obtain ⟨j, hj⟩ := List.getElem?_of_mem hr
    rw [List.getElem?_take] at hj
    split at hj
    · exact h j ‹_› r hj
    · cases hj

/-! ### The receiver's part of the invariant -/

/-- The scratch buffer and the record file: what an end of frame relies on. -/
def StorageInv (cfg : Config) (rx : Receiver) : Prop := scratchInv cfg rx ∧ recordsInv cfg rx

/-- The receiver's part of `State.Inv`. -/
def RxInv (cfg : Config) (rx : Receiver) : Prop := StorageInv cfg rx ∧ phaseInv cfg rx

theorem phaseInv_of_idle {cfg : Config} {rx : Receiver} (h : rx = { rxCleared cfg with syncWin := rx.syncWin }) :
    phaseInv cfg rx := by
  have hst : rx.rxState = .idle := by rw [h]; rfl
  exact ⟨fun _ => h, by simp [hst], by simp [hst], by simp [hst], by simp [hst], by simp [hst]⟩

/-- A receiver that holds nothing but a sync window. -/
theorem rxInv_of_idle {cfg : Config} (win : Long) : RxInv cfg { rxCleared cfg with syncWin := win } := by
  refine ⟨⟨⟨rfl, by simp [rxCleared], Nat.zero_le _⟩, recsCleared_length cfg, Nat.zero_le _, ?_⟩, phaseInv_of_idle rfl⟩
  simp [rxCleared]

theorem rxInv_rxCleared (cfg : Config) : RxInv cfg (rxCleared cfg) := rxInv_of_idle 0

/-- Right after a sync: position 4 of LENGTH, nothing stored. -/
theorem rxInv_rxSynced (cfg : Config) : RxInv cfg (rxSynced cfg) := by
  obtain ⟨hstorage, -⟩ := rxInv_rxCleared cfg
  refine ⟨hstorage, ?_, fun _ => ⟨⟨le_rfl, le_max_left _ _⟩, Nat.le_succ 4, rfl, rfl, rfl⟩, ?_, ?_, ?_, ?_⟩ <;>
    simp [rxSynced]

/-! ### Each state's clause, once the state is known -/

theorem phaseInv_length {cfg : Config} {rx : Receiver} (hst : rx.rxState = .length)
    (h : guardInv cfg rx ∧ rx.pos ≤ 5 ∧ rx.lenOk = false ∧ noCommandInv rx) : phaseInv cfg rx :=
  ⟨by simp [hst], fun _ => h, by simp [hst], by simp [hst], by simp [hst], by simp [hst]⟩

theorem phaseInv_timeStart {cfg : Config} {rx : Receiver} (hst : rx.rxState = .timeStart)
    (h : guardInv cfg rx ∧ lengthInv cfg rx ∧ 6 ≤ rx.pos ∧ rx.pos ≤ 9 ∧ noCommandInv rx) : phaseInv cfg rx :=
  ⟨by simp [hst], by simp [hst], fun _ => h, by simp [hst], by simp [hst], by simp [hst]⟩

theorem phaseInv_time {cfg : Config} {rx : Receiver} (hst : rx.rxState = .time)
    (h : guardInv cfg rx ∧ lengthInv cfg rx ∧ 10 ≤ rx.pos ∧ rx.pos ≤ 47 ∧ noCommandInv rx) : phaseInv cfg rx :=
  ⟨by simp [hst], by simp [hst], by simp [hst], fun _ => h, by simp [hst], by simp [hst]⟩

theorem phaseInv_cmdStart {cfg : Config} {rx : Receiver} (hst : rx.rxState = .cmdStart)
    (h : guardInv cfg rx ∧ lengthInv cfg rx ∧ 10 ≤ rx.pos ∧ rx.idleCnt.toNat ≤ 2 ∧ rx.wp ≤ (maxArgs + 1) * rx.cmdK) :
    phaseInv cfg rx :=
  ⟨by simp [hst], by simp [hst], by simp [hst], by simp [hst], fun _ => h, by simp [hst]⟩

theorem phaseInv_cmd {cfg : Config} {rx : Receiver} (hst : rx.rxState = .cmd)
    (h : guardInv cfg rx ∧ lengthInv cfg rx ∧ 10 ≤ rx.pos ∧ commandInv cfg rx) : phaseInv cfg rx :=
  ⟨by simp [hst], by simp [hst], by simp [hst], by simp [hst], by simp [hst], fun _ => h⟩

/-! ### Rules that store nothing -/

/-- A byte counted past the guard stays within it. -/
theorem guardInv_counted {cfg : Config} {rx rx' : Receiver} (h : guardInv cfg rx) (hov : rx.pos + 1 ≤ cfg.maxPacketSize)
    (hpos : rx'.pos = rx.pos + 1) : guardInv cfg rx' := by
  obtain ⟨hlo, -⟩ := h
  refine ⟨by omega, ?_⟩
  rw [hpos]
  exact hov.trans (le_max_right _ _)

/-- A byte that does not end the frame leaves it unfinished. -/
theorem lengthInv_counted {cfg : Config} {rx rx' : Receiver} (h : lengthInv cfg rx) (hpos : rx'.pos = rx.pos + 1)
    (hlen : rx'.lenOk = rx.lenOk) (hfe : rx'.frameEnd = rx.frameEnd) (hend : atFrameEnd rx' = false) :
    lengthInv cfg rx' := by
  obtain ⟨hok, hlt, hmin, hmax⟩ := h
  have hok' : rx'.lenOk = true := hlen.trans hok
  have hne : rx'.pos ≠ rx'.frameEnd.toNat := fun he => atFrameEnd_eq_false.mp hend ⟨hok', he⟩
  rw [hfe] at hne
  refine ⟨hok', ?_, by rwa [hfe], by rwa [hfe]⟩
  rw [hfe]
  omega

section
variable {cfg : Config} {rx rx' : Receiver} {w : Word} {b : Byte} {c : Word}

/-- The receiver that a state rule sees: a byte counted into the position and some checksum. -/
def counted (rx : Receiver) (c : Word) : Receiver := { rx with pos := rx.pos + 1, crc := c }

/-- The receiver that a step ends with. -/
def remembered (rx : Receiver) (b : Byte) : Receiver := { rx with last := b }

theorem lengthNext_storage (h : StorageInv cfg rx) (hn : LengthNext cfg (counted rx c) w rx') : StorageInv cfg rx' := by
  obtain ⟨-, rfl⟩ | ⟨-, -, -, rfl⟩ := hn <;> exact h

theorem timeStartNext_storage (h : StorageInv cfg rx) (hn : TimeStartNext cfg (counted rx c) rx') : StorageInv cfg rx' := by
  obtain ⟨-, _, rfl⟩ | ⟨-, rfl | ⟨-, rfl⟩ | rfl⟩ := hn <;> exact h

theorem timeNext_storage (h : StorageInv cfg rx) (hn : TimeNext (counted rx c) rx') : StorageInv cfg rx' := by
  obtain ⟨-, _, _, _, rfl⟩ | ⟨-, _, rfl⟩ := hn <;> exact h

theorem cmdStartNext_storage (h : StorageInv cfg rx) (hn : CmdStartNext cfg (counted rx c) rx') : StorageInv cfg rx' := by
  obtain ⟨_, -, rfl⟩ | ⟨-, rfl⟩ := hn <;> exact h

theorem frameEnd_of_accepted (hf : lengthFormat w = 0) (hl : frameLengthBad cfg (frameLength w) = false) :
    (lengthAccepted rx w).frameEnd.toNat = 6 + w.toNat ∧ cfg.itfLenMin ≤ w.toNat ∧ w.toNat ≤ cfg.itfLenMax := by
  have hlt := lengthFormat_eq_zero.mp hf
  have hok := (frameLengthBad_iff (cfg := cfg) hlt).not.mp (Bool.eq_false_iff.mp hl)
  refine ⟨?_, by omega, by omega⟩
  change (6 + (frameLength w).setWidth 16).toNat = _
  rw [frameEnd_eq hlt, BitVec.toNat_ofNat]
  omega

theorem lengthNext_phase (hlegal : cfg.Legal) (hst : rx.rxState = .length) (h : phaseInv cfg rx)
    (hov : rx.pos + 1 ≤ cfg.maxPacketSize) (hn : LengthNext cfg (counted rx c) w rx') :
    phaseInv cfg (remembered rx' b) := by
  obtain ⟨-, -, -, -, -, hone, -⟩ := hlegal
  obtain ⟨hguard, hpos, hlen, hnone⟩ := h.2.1 hst
  obtain ⟨h6, rfl⟩ | ⟨h6, hf, hl, rfl⟩ := hn
  · have hpos' : rx.pos + 1 ≠ 6 := h6
    exact phaseInv_length hst ⟨guardInv_counted hguard hov rfl, (by omega : rx.pos + 1 ≤ 5), hlen, hnone⟩
  · have hpos6 : rx.pos + 1 = 6 := h6
    obtain ⟨hfe, hmin, hmax⟩ := frameEnd_of_accepted (rx := counted rx c) hf hl
    refine phaseInv_timeStart rfl ⟨guardInv_counted hguard hov rfl, ⟨rfl, ?_, ?_, ?_⟩, hpos6.ge,
      (by omega : rx.pos + 1 ≤ 9), hnone⟩
    · change rx.pos + 1 < (lengthAccepted (counted rx c) w).frameEnd.toNat
      omega
    · change _ ≤ (lengthAccepted (counted rx c) w).frameEnd.toNat
      omega
    · change (lengthAccepted (counted rx c) w).frameEnd.toNat ≤ _
      omega

theorem commandBegins_commandInv (hk : rx.cmdK < cfg.maxCmds) (hwp : rx.wp ≤ (maxArgs + 1) * rx.cmdK) {c0 : Word}
    (h2 : 2 ≤ c0.toNat) (h6 : c0.toNat < 6) : commandInv cfg (remembered (commandBegins rx c0) b) :=
  ⟨hk, h2, hwp, fun _ => rfl, fun h => absurd h6 (Nat.not_lt.mpr h)⟩

theorem timeStartNext_phase (hst : rx.rxState = .timeStart) (h : phaseInv cfg rx) (hov : rx.pos + 1 ≤ cfg.maxPacketSize)
    (hend : atFrameEnd rx' = false) (hn : TimeStartNext cfg (counted rx c) rx') : phaseInv cfg (remembered rx' b) := by
  obtain ⟨hguard, hlength, hlo, hhi, hk, hwp⟩ := h.2.2.1 hst
  have hwp' : rx.wp ≤ (maxArgs + 1) * rx.cmdK := hwp.trans_le (Nat.zero_le _)
  obtain ⟨h10, _, rfl⟩ | ⟨h10, rfl | ⟨hlt, rfl⟩ | rfl⟩ := hn
  · have hpos : rx.pos + 1 ≠ 10 := h10
    exact phaseInv_timeStart hst ⟨guardInv_counted hguard hov rfl, lengthInv_counted hlength rfl rfl rfl hend,
      (by omega : 6 ≤ rx.pos + 1), (by omega : rx.pos + 1 ≤ 9), hk, hwp⟩
  all_goals have hpos : rx.pos + 1 = 10 := h10
  · exact phaseInv_time rfl ⟨guardInv_counted hguard hov rfl, lengthInv_counted hlength rfl rfl rfl hend, hpos.ge,
      (by omega : rx.pos + 1 ≤ 47), hk, hwp⟩
  · exact phaseInv_cmd rfl ⟨guardInv_counted hguard hov rfl, lengthInv_counted hlength rfl rfl rfl hend, hpos.ge,
      commandBegins_commandInv (rx := counted rx c) hlt hwp' (by decide) (by decide)⟩
  · exact phaseInv_cmdStart rfl ⟨guardInv_counted hguard hov rfl, lengthInv_counted hlength rfl rfl rfl hend, hpos.ge,
      Nat.zero_le 2, hwp'⟩

theorem timeNext_phase (hst : rx.rxState = .time) (h : phaseInv cfg rx) (hov : rx.pos + 1 ≤ cfg.maxPacketSize)
    (hend : atFrameEnd rx' = false) (hn : TimeNext (counted rx c) rx') : phaseInv cfg (remembered rx' b) := by
  obtain ⟨hguard, hlength, hlo, hhi, hk, hwp⟩ := h.2.2.2.1 hst
  obtain ⟨h48, _, _, _, rfl⟩ | ⟨-, _, rfl⟩ := hn
  · have hpos : rx.pos + 1 ≠ 48 := h48
    exact phaseInv_time hst ⟨guardInv_counted hguard hov rfl, lengthInv_counted hlength rfl rfl rfl hend,
      (by omega : 10 ≤ rx.pos + 1), (by omega : rx.pos + 1 ≤ 47), hk, hwp⟩
  · exact phaseInv_cmdStart rfl ⟨guardInv_counted hguard hov rfl, lengthInv_counted hlength rfl rfl rfl hend,
      (by omega : 10 ≤ rx.pos + 1), Nat.zero_le 2, hwp.trans_le (Nat.zero_le _)⟩

theorem cmdStartNext_phase (hst : rx.rxState = .cmdStart) (h : phaseInv cfg rx) (hov : rx.pos + 1 ≤ cfg.maxPacketSize)
    (hend : atFrameEnd rx' = false) (hn : CmdStartNext cfg (counted rx c) rx') : phaseInv cfg (remembered rx' b) := by
  obtain ⟨hguard, hlength, hlo, -, hwp⟩ := h.2.2.2.2.1 hst
  have hpos : 10 ≤ rx.pos + 1 := by omega
  obtain ⟨n, h2, rfl⟩ | ⟨hlt, rfl⟩ := hn
  · exact phaseInv_cmdStart hst ⟨guardInv_counted hguard hov rfl, lengthInv_counted hlength rfl rfl rfl hend, hpos, h2, hwp⟩
  · exact phaseInv_cmd rfl ⟨guardInv_counted hguard hov rfl, lengthInv_counted hlength rfl rfl rfl hend, hpos,
      commandBegins_commandInv (rx := counted rx c) hlt hwp (by decide) (by decide)⟩

/-! ### CMD: the body of a command -/

/-- A command whose body byte or pad byte has just been taken: as `commandInv` after the length check, but `cmd_c` may have
reached `cmd_end` (rules R156, R157). -/
structure BodyInv (cfg : Config) (rx : Receiver) : Prop where
  room : rx.cmdK < cfg.maxCmds
  startWp : rx.cmdStartWp ≤ (maxArgs + 1) * rx.cmdK
  minLen : cfg.minCmd ≤ rx.cmdLen.toNat
  maxLen : rx.cmdLen.toNat ≤ cfg.maxCmd
  cmdEnd : rx.cmdEnd.toNat = rx.cmdLen.toNat + 7 + (if rx.cmdLen.toNat % 2 = 0 then 1 else 0)
  started : 11 ≤ rx.cmdC.toNat
  notPast : rx.cmdC.toNat ≤ rx.cmdEnd.toNat
  wp : rx.wp = rx.cmdStartWp + (min rx.cmdC.toNat (rx.cmdLen.toNat + 7) - 10)

/-- The receiver that the rule of CMD sees, its command byte counted too. -/
def cmdByteCounted (rx : Receiver) (c : Word) : Receiver := { counted rx c with cmdC := rx.cmdC + 1 }

theorem cmdC_succ (hlegal : cfg.Legal) (h : commandInv cfg rx) : (rx.cmdC + 1).toNat = rx.cmdC.toNat + 1 := by
  obtain ⟨-, -, hmax, -⟩ := hlegal
  obtain ⟨-, -, -, -, hbody⟩ := h
  refine succ_toNat_of_lt ?_
  by_cases h6 : rx.cmdC.toNat < 6
  · omega
  · obtain ⟨-, hle, hend, hlt, -⟩ := hbody (Nat.not_lt.mp h6)
    simp only [maxArgs] at hmax
    split at hend <;> omega

theorem bodyInv_stored (hlegal : cfg.Legal) (h : commandInv cfg rx) (h11 : 11 ≤ (rx.cmdC + 1).toNat)
    (hin : (rx.cmdC + 1).toNat ≤ rx.cmdLen.toNat + 7) : BodyInv cfg (rxStored (cmdByteCounted rx c) b) := by
  have hsucc := cmdC_succ hlegal h
  obtain ⟨hk, -, hstart, -, hbody⟩ := h
  obtain ⟨hmin, hmax, hend, hlt, hwp⟩ := hbody (by omega)
  refine ⟨hk, hstart, hmin, hmax, hend, h11, hsucc.trans_le hlt, ?_⟩
  change rx.wp + 1 = rx.cmdStartWp + (min (rx.cmdC + 1).toNat (rx.cmdLen.toNat + 7) - 10)
  omega

theorem bodyInv_pad (hlegal : cfg.Legal) (h : commandInv cfg rx) (h11 : 11 ≤ (rx.cmdC + 1).toNat)
    (hout : rx.cmdLen.toNat + 7 < (rx.cmdC + 1).toNat) : BodyInv cfg (cmdByteCounted rx c) := by
  have hsucc := cmdC_succ hlegal h
  obtain ⟨hk, -, hstart, -, hbody⟩ := h
  obtain ⟨hmin, hmax, hend, hlt, hwp⟩ := hbody (by omega)
  refine ⟨hk, hstart, hmin, hmax, hend, h11, hsucc.trans_le hlt, ?_⟩
  change rx.wp = rx.cmdStartWp + (min (rx.cmdC + 1).toNat (rx.cmdLen.toNat + 7) - 10)
  omega

/-- At `cmd_end` all body bytes are stored. -/
theorem BodyInv.wp_at_end (h : BodyInv cfg rx) (hend : rx.cmdC = rx.cmdEnd) :
    rx.wp = rx.cmdStartWp + (rx.cmdLen.toNat - 3) := by
  have hwp := h.wp
  have hc := h.cmdEnd
  rw [hend] at hwp
  split at hc <;> omega

theorem commandRecord_below (hlegal : cfg.Legal) (h : BodyInv cfg rx) (hend : rx.cmdC = rx.cmdEnd) :
    RecordBelow rx.wp (commandRecord rx) := by
  obtain ⟨hfour, -, hmax, -⟩ := hlegal
  have hlo := h.minLen
  have hhi := h.maxLen
  have hwp := h.wp_at_end hend
  have hoff : (commandRecord rx).off.toNat ≤ rx.cmdStartWp := recordOffset_le _
  have hcnt : (commandRecord rx).cnt.toNat = (rx.cmdLen.toNat - 4) % 256 := by
    rw [commandRecord, recordCount_eq (by omega), BitVec.toNat_ofNat]
  simp only [maxArgs] at hmax
  refine ⟨by omega, ?_⟩
  simp only [maxArgs]
  omega

theorem rxStored_storage (h : StorageInv cfg rx) (hroom : rx.wp < cfg.scratchSize) : StorageInv cfg (rxStored rx b) := by
  obtain ⟨⟨hwf, hbelow, -⟩, hlen, hk, hrecs⟩ := h
  refine ⟨⟨Memory.wf_write _ b hwf, fun e he => ?_, hroom⟩, hlen, hk, fun r hr => RecordBelow.mono (hrecs r hr) (Nat.le_succ _)⟩
  obtain he | rfl := Memory.mem_write he
  · exact (hbelow e he).trans (Nat.lt_succ_self _)
  · exact Nat.lt_succ_self _

theorem commandDone_storage (h : StorageInv cfg rx) (hk : rx.cmdK < cfg.maxCmds)
    (hrec : RecordBelow rx.wp (commandRecord rx)) : StorageInv cfg (commandDone rx) := by
  obtain ⟨hscratch, hlen, -, hrecs⟩ := h
  refine ⟨hscratch, (List.length_set ..).trans hlen, hk, forall_mem_take_iff.mpr fun j hj r hr => ?_⟩
  change (rx.recs.set rx.cmdK (commandRecord rx))[j]? = some r at hr
  rw [List.getElem?_set] at hr
  split at hr
  · split at hr
    · cases hr
      exact hrec
    · cases hr
  · have hj' : j < rx.cmdK + 1 := hj
    exact forall_mem_take_iff.mp hrecs j (by omega) r hr

theorem completeNext_storage (hlegal : cfg.Legal) (h : StorageInv cfg rx) (hbody : BodyInv cfg rx)
    (hn : CompleteNext rx rx') : StorageInv cfg rx' := by
  obtain ⟨-, rfl⟩ | ⟨hend, -, rfl⟩ := hn
  · exact h
  · exact commandDone_storage h hbody.room (commandRecord_below hlegal hbody hend)

/-- An excision clears records and argument counts, which keeps the live records in bounds (rule R153). -/
theorem excisedRecs_below {recs : List CmdRecord} {k wp : Nat} (hk : k < recs.length)
    (h : ∀ r ∈ recs.take k, RecordBelow wp r) : ∀ r ∈ (excisedRecs cfg recs k).take k, RecordBelow wp r := by
  rw [forall_mem_take_iff] at h ⊢
  intro j hj r hr
  rw [excisedRecs_getElem? hk, if_neg hj.ne] at hr
  split at hr
  · obtain ⟨q, hq, rfl⟩ := Option.map_eq_some_iff.mp hr
    obtain ⟨hbound, -⟩ := h j hj q hq
    exact ⟨(Nat.le_of_lt_succ (by simpa using by omega)), Nat.zero_le _⟩
  · exact h j hj r hr

theorem cmdNext_storage (hlegal : cfg.Legal) (h : StorageInv cfg rx) (hcmd : commandInv cfg rx)
    (hn : CmdNext cfg (cmdByteCounted rx c) w b rx') : StorageInv cfg rx' := by
  obtain ⟨-, -, rfl⟩ | ⟨-, -, rfl⟩ | ⟨h6, hk, rfl⟩ | ⟨h11, hin, hroom, hn⟩ | ⟨h11, hout, hn⟩ := hn
  · exact h
  · exact h
  · have hwp : rx.wp = rx.cmdStartWp := by
      have hsucc := cmdC_succ hlegal hcmd
      have h6' : (rx.cmdC + 1).toNat = 6 := congrArg BitVec.toNat h6
      exact hcmd.2.2.2.1 (by omega)
    obtain ⟨⟨hwf, hbelow, hsize⟩, hlen, hle, hrecs⟩ := h
    rw [hwp] at hbelow hsize hrecs
    exact ⟨⟨hwf, hbelow, hsize⟩, (excisedRecs_length ..).trans hlen, hle, excisedRecs_below hk hrecs⟩
  · exact completeNext_storage hlegal (rxStored_storage (rx := cmdByteCounted rx c) h hroom)
      (bodyInv_stored hlegal hcmd h11 hin) hn
  · exact completeNext_storage (rx := cmdByteCounted rx c) hlegal h (bodyInv_pad hlegal hcmd h11 hout) hn

/-- What CMD's registers leave to say once the frame's own are in order: the command in progress, or the search. -/
def CmdOrSearch (cfg : Config) (rx : Receiver) : Prop :=
  (rx.rxState = .cmd ∧ commandInv cfg rx) ∨
    (rx.rxState = .cmdStart ∧ rx.idleCnt.toNat ≤ 2 ∧ rx.wp ≤ (maxArgs + 1) * rx.cmdK)

theorem completeNext_cmdOrSearch (hlegal : cfg.Legal) (hst : rx.rxState = .cmd) (h : BodyInv cfg rx)
    (hn : CompleteNext rx rx') : CmdOrSearch cfg rx' := by
  obtain ⟨hne, rfl⟩ | ⟨hend, -, rfl⟩ := hn
  · have hlt : rx'.cmdC.toNat < rx'.cmdEnd.toNat :=
      lt_of_le_of_ne h.notPast fun he => hne (BitVec.eq_of_toNat_eq he)
    have h11 := h.started
    exact .inl ⟨hst, h.room, by omega, h.startWp, fun h6 => by omega,
      fun _ => ⟨h.minLen, h.maxLen, h.cmdEnd, hlt, h.wp⟩⟩
  · obtain ⟨-, -, hmax, -⟩ := hlegal
    have hwp := h.wp_at_end hend
    have hstart := h.startWp
    have hhi := h.maxLen
    refine .inr ⟨rfl, Nat.zero_le 2, ?_⟩
    change rx.wp ≤ (maxArgs + 1) * (rx.cmdK + 1)
    simp only [maxArgs] at *
    omega

theorem cmdEndOf_toNat (h : w.toNat ≤ maxArgs + 4) :
    (cmdEndOf w).toNat = w.toNat + 7 + (if w.toNat % 2 = 0 then 1 else 0) := by
  simp only [maxArgs] at h
  rw [cmdEndOf_eq, BitVec.toNat_ofNat]
  split <;> omega

theorem cmdNext_cmdOrSearch (hlegal : cfg.Legal) (hst : rx.rxState = .cmd) (hcmd : commandInv cfg rx)
    (hn : CmdNext cfg (cmdByteCounted rx c) w b rx') : CmdOrSearch cfg rx' := by
  have hsucc := cmdC_succ hlegal hcmd
  have hlegal' := hlegal
  obtain ⟨hfour, -, hmaxArgs, -⟩ := hlegal'
  obtain ⟨hk, htwo, hstart, hhead, hbody⟩ := hcmd
  obtain ⟨h6, h11, rfl⟩ | ⟨h6, hl, rfl⟩ | ⟨h6, -, rfl⟩ | ⟨h11, hin, -, hn⟩ | ⟨h11, hout, hn⟩ := hn
  · have hne6 : (rx.cmdC + 1).toNat ≠ 6 := fun he => h6 (BitVec.eq_of_toNat_eq he)
    have hlt11 : (rx.cmdC + 1).toNat < 11 := h11
    refine .inl ⟨hst, hk, (by omega : 2 ≤ (rx.cmdC + 1).toNat), hstart, fun hlt6 => ?_, fun hge6 => ?_⟩
    · have hlt6' : (rx.cmdC + 1).toNat < 6 := hlt6
      exact hhead (by omega)
    · have hge6' : 6 ≤ (rx.cmdC + 1).toNat := hge6
      obtain ⟨hmin, hmax, hend, -, hwp⟩ := hbody (by omega)
      refine ⟨hmin, hmax, hend, ?_, ?_⟩
      · change (rx.cmdC + 1).toNat < rx.cmdEnd.toNat
        omega
      · change rx.wp = rx.cmdStartWp + (min (rx.cmdC + 1).toNat (rx.cmdLen.toNat + 7) - 10)
        omega
  · have h6' : (rx.cmdC + 1).toNat = 6 := congrArg BitVec.toNat h6
    have hok := cmdLengthBad_iff.not.mp (Bool.eq_false_iff.mp hl)
    have hend := cmdEndOf_toNat (w := w) (by omega)
    refine .inl ⟨hst, hk, (by omega : 2 ≤ (rx.cmdC + 1).toNat), hstart, fun hlt6 => absurd hlt6 h6'.not_lt, fun _ => ?_⟩
    refine ⟨(by omega : cfg.minCmd ≤ w.toNat), (by omega : w.toNat ≤ cfg.maxCmd), hend, ?_, ?_⟩
    · change (rx.cmdC + 1).toNat < (cmdEndOf w).toNat
      omega
    · change rx.wp = rx.cmdStartWp + (min (rx.cmdC + 1).toNat (w.toNat + 7) - 10)
      rw [hhead (by omega)]
      omega
  · exact .inr ⟨rfl, Nat.zero_le 2, hstart⟩
  · exact completeNext_cmdOrSearch (rx := rxStored (cmdByteCounted rx c) b) hlegal hst
      (bodyInv_stored hlegal ⟨hk, htwo, hstart, hhead, hbody⟩ h11 hin) hn
  · exact completeNext_cmdOrSearch (rx := cmdByteCounted rx c) hlegal hst
      (bodyInv_pad hlegal ⟨hk, htwo, hstart, hhead, hbody⟩ h11 hout) hn

theorem cmdNext_phase (hlegal : cfg.Legal) (hst : rx.rxState = .cmd) (h : phaseInv cfg rx)
    (hov : rx.pos + 1 ≤ cfg.maxPacketSize) (hend : atFrameEnd rx' = false)
    (hn : CmdNext cfg (cmdByteCounted rx c) w b rx') : phaseInv cfg (remembered rx' b) := by
  obtain ⟨hguard, hlength, hlo, hcmd⟩ := h.2.2.2.2.2 hst
  obtain ⟨hpos, -, hlen, hfe⟩ := cmdNext_kept hn
  replace hpos : rx'.pos = rx.pos + 1 := hpos
  have hguard' : guardInv cfg (remembered rx' b) := guardInv_counted hguard hov hpos
  have hlength' : lengthInv cfg (remembered rx' b) := lengthInv_counted hlength hpos hlen hfe hend
  have hlo' : 10 ≤ (remembered rx' b).pos := (by omega : 10 ≤ rx'.pos)
  obtain ⟨hst', hcmd'⟩ | ⟨hst', hidle, hwp⟩ := cmdNext_cmdOrSearch hlegal hst hcmd hn
  · exact phaseInv_cmd hst' ⟨hguard', hlength', hlo', hcmd'⟩
  · exact phaseInv_cmdStart hst' ⟨hguard', hlength', hlo', hidle, hwp⟩

/-! ### All rules together -/

/-- Every rule that goes on keeps the storage in bounds, at the end of the frame too. -/
theorem ruleNext_storage {st : RxState} (hlegal : cfg.Legal) (hst : rx.rxState = st) (h : RxInv cfg rx)
    (hn : RuleNext st cfg (counted rx c) w b rx') : StorageInv cfg rx' := by
  obtain ⟨hstorage, hphase⟩ := h
  cases st with
  | idle => exact hn.elim
  | length => exact lengthNext_storage hstorage hn
  | timeStart => exact timeStartNext_storage hstorage hn
  | time => exact timeNext_storage hstorage hn
  | cmdStart => exact cmdStartNext_storage hstorage hn
  | cmd =>
    obtain ⟨-, -, -, hcmd⟩ := hphase.2.2.2.2.2 hst
    exact cmdNext_storage hlegal hstorage hcmd hn

/-- Every rule that goes on keeps the invariant, but for a byte that ends the frame. -/
theorem ruleNext_keeps {st : RxState} (hlegal : cfg.Legal) (hst : rx.rxState = st) (h : RxInv cfg rx)
    (hov : rx.pos + 1 ≤ cfg.maxPacketSize) (hend : atFrameEnd rx' = false)
    (hn : RuleNext st cfg (counted rx c) w b rx') : RxInv cfg (remembered rx' b) := by
  have hstorage := ruleNext_storage hlegal hst h hn
  refine ⟨hstorage, ?_⟩
  obtain ⟨-, hphase⟩ := h
  cases st with
  | idle => exact hn.elim
  | length => exact lengthNext_phase hlegal hst hphase hov hn
  | timeStart => exact timeStartNext_phase hst hphase hov hend hn
  | time => exact timeNext_phase hst hphase hov hend hn
  | cmdStart => exact cmdStartNext_phase hst hphase hov hend hn
  | cmd => exact cmdNext_phase hlegal hst hphase hov hend hn

end

/-! ### Every operation keeps the invariant -/

theorem rxInv_of_inv {s : State} (h : s.Inv) : RxInv s.cfg s.rx := ⟨⟨h.scratch, h.records⟩, h.phase⟩

/-- "`sic` stays in 0..N-1" (rule R205). -/
def SicBelow (cfg : Config) (sic : Long) : Prop := cfg.statusInterval ≠ 0 → sic.toNat < cfg.statusInterval.toNat

/-- The invariant of a later state from its parts; the parameters and the table are as they were. -/
theorem inv_of_parts {s t : State} (h : s.Inv) (hcfg : t.cfg = s.cfg) (htable : t.crcTable = builtCrcTable)
    (hout : t.link.outbuf.length = statusTotal) (hsic : SicBelow s.cfg t.inst.sic) (hrx : RxInv s.cfg t.rx) : t.Inv := by
  rw [← hcfg] at hsic hrx
  obtain ⟨⟨hscratch, hrecords⟩, hphase⟩ := hrx
  exact ⟨hcfg ▸ h.legal, htable, hout, hsic, hscratch, hrecords, hphase⟩

/-- The invariant does not look at the receiver's past: another receiver in order keeps it. -/
theorem inv_withRx {s : State} (h : s.Inv) {rx : Receiver} (hrx : RxInv s.cfg rx) : (s.withRx rx).Inv :=
  inv_of_parts h rfl h.table h.outbuf h.status hrx

/-- Nor at the input port, at a named word, or at the fields of the instrument state other than `sic`. -/
theorem inv_congr {s t : State} (h : s.Inv) (hcfg : t.cfg = s.cfg) (hrx : t.rx = s.rx)
    (htable : t.crcTable = s.crcTable) (hlink : t.link = s.link) (hsic : t.inst.sic = s.inst.sic) : t.Inv := by
  refine inv_of_parts h hcfg (htable.trans h.table) ?_ ?_ ?_
  · rw [hlink]
    exact h.outbuf
  · rw [hsic]
    exact h.status
  · rw [hrx]
    exact rxInv_of_inv h

theorem sicBelow_succ {cfg : Config} {sic : Long} (h : SicBelow cfg sic)
    (hnot : ¬ (cfg.statusInterval ≠ 0 ∧ sic + 1 = cfg.statusInterval)) : SicBelow cfg (sic + 1) := by
  intro hne
  have hlt := h hne
  have hneq : sic + 1 ≠ cfg.statusInterval := fun he => hnot ⟨hne, he⟩
  bv_omega

theorem sicBelow_zero (cfg : Config) : SicBelow cfg 0 := by
  intro hne
  bv_omega

/-- A time advance keeps `sic` below the interval: at the interval the Status clears it. -/
theorem metAdvance_keeps {s t : State} (h : s.Inv) (ht : metAdvance s = .ok t) : t.Inv := by
  obtain ⟨hcfg, hrx, htable, -⟩ := metAdvance_frame ht
  have hout : t.link.outbuf.length = statusTotal := by
    obtain ⟨ps, hps⟩ := emits_of_none_or_one (metAdvance_emits ht)
    exact hps.outbuf h.outbuf
  refine inv_of_parts h hcfg (htable.trans h.table) hout ?_ (by rw [hrx]; exact rxInv_of_inv h)
  by_cases hdue : s.cfg.statusInterval ≠ 0 ∧ (timeCounted s).inst.sic = s.cfg.statusInterval
  · rw [metAdvance_eq, if_pos (statusDue_iff.mpr hdue), bind_eq_ok] at ht
    obtain ⟨v, -, hv⟩ := ht
    cases hv
    exact sicBelow_zero s.cfg
  · rw [metAdvance_of_not_due hdue] at ht
    cases ht
    rw [timeCounted_sic] at hdue ⊢
    exact sicBelow_succ h.status hdue

theorem lockedStep_keeps {s t : State} {b : Byte} (h : s.Inv) (ht : LockedStep s.rx.rxState s b t) : t.Inv := by
  obtain ⟨ps, hps⟩ := lockedStep_emits ht
  refine inv_of_parts h ht.frame.cfg (ht.frame.crcTable.trans h.table) (hps.outbuf h.outbuf) ?_ ?_
  · rw [ht.frame.sic]
    exact h.status
  · obtain hcleared | ⟨hov, rx', hnext, hend, hrx⟩ := ht.rx
    · rw [hcleared]
      exact rxInv_rxCleared s.cfg
    · rw [hrx]
      exact ruleNext_keeps h.legal rfl (rxInv_of_inv h) hov hend hnext

theorem idleByte_keeps {s t : State} {b : Byte} (h : s.Inv) (hst : s.rx.rxState = .idle) (ht : idleByte s b = .ok t) :
    t.Inv := by
  obtain rfl | hsync := idleByte_answer ht
  · refine inv_withRx h ?_
    rw [h.phase.1 hst]
    exact rxInv_of_idle _
  · exact metAdvance_keeps (inv_withRx h (rxInv_rxSynced s.cfg)) hsync

theorem afterReset_keeps {s : State} (h : s.Inv) : (afterReset s).Inv :=
  inv_of_parts h rfl rfl (by simp [afterReset, outbufUnspecified]) (sicBelow_zero s.cfg) (rxInv_rxCleared s.cfg)

theorem executed_keeps {i : Instr} {s t : State} (h : s.Inv) (ht : Executed s i t) : t.Inv := by
  cases ht with
  | idle b hst ht => exact idleByte_keeps h hst ht
  | locked b hst ht => exact lockedStep_keeps h ht
  | sends hi hsame ps hps =>
    refine inv_of_parts h hsame.cfg (hsame.crcTable.trans h.table) (hps.outbuf h.outbuf) ?_ ?_
    · rw [hsame.sic]
      exact h.status
    · rw [hsame.rx]
      exact rxInv_of_inv h
  | metAdvance ht => exact metAdvance_keeps h ht
  | reset => exact afterReset_keeps h
  | rxReset => exact inv_withRx h (rxInv_rxCleared s.cfg)
  | buildTable => exact inv_congr h rfl rfl h.table.symm rfl rfl
  | crcUpdate c b r | crcResidueCheck c r | seqAdvance | seqReset | hbToggle | pwrToggle =>
    exact inv_congr h rfl rfl rfl rfl rfl

/-- Settles O52: a step is an operation from a state that differs in its port or its named word only. -/
theorem everyStepKeepsTheInvariant : Obligations.EveryStepKeepsTheInvariant := by
  intro s t h hstep
  obtain rfl | ⟨o, i, -, hex⟩ | ⟨item, rest, i, -, -, -, hex⟩ := step_next hstep
  · exact h
  · exact executed_keeps (s := s.withProbe none) (inv_congr h rfl rfl rfl rfl rfl) hex
  · exact executed_keeps (s := s.withInbound rest) (inv_congr h rfl rfl rfl rfl rfl) hex

/-! ### Every operation completes -/

/-- The operation inside a step answers. -/
def Completes {α : Type} (r : Res α) : Prop := ∃ a, r = .ok a

theorem Completes.ok {α : Type} (a : α) : Completes (.ok a : Res α) := ⟨a, rfl⟩

theorem Completes.ite {α : Type} {p : Prop} [Decidable p] {r q : Res α} (hr : p → Completes r) (hq : ¬ p → Completes q) :
    Completes (if p then r else q) := by
  split
  · exact hr ‹_›
  · exact hq ‹_›

theorem Completes.bind {α β : Type} {r : Res α} {f : α → Res β} (hr : Completes r) (hf : ∀ a, r = .ok a → Completes (f a)) :
    Completes (r >>= f) := by
  obtain ⟨a, ha⟩ := hr
  rw [ha]
  exact hf a ha

theorem raiseAlarm_completes {s : State} (hc : s.CanSend) (code : AlarmCode) : Completes (raiseAlarm s code) :=
  ⟨_, raiseAlarm_eq hc code⟩

theorem abortWith_completes {s : State} (hc : s.CanSend) (code : AlarmCode) : Completes (abortWith s code) :=
  (raiseAlarm_completes hc code).bind fun _ _ => .ok _

theorem alarmToCmdStart_completes {s : State} (hc : s.CanSend) (code : AlarmCode) : Completes (alarmToCmdStart s code) :=
  (raiseAlarm_completes hc code).bind fun _ _ => .ok _

theorem beginCommand_completes {s : State} (hc : s.CanSend) (c0 : Word) : Completes (beginCommand s c0) :=
  .ite (fun _ => abortWith_completes hc _) fun _ => .ok _

theorem lengthRule_completes {s : State} (hc : s.CanSend) (b : Byte) (w : Word) : Completes (lengthRule s b w) :=
  .ite (fun _ => .ite (fun _ => abortWith_completes hc _) fun _ => .ite (fun _ => abortWith_completes hc _) fun _ => .ok _)
    fun _ => .ok _

theorem timeStartRule_completes {s : State} (hc : s.CanSend) (b : Byte) (w : Word) : Completes (timeStartRule s b w) :=
  .ite (fun _ => .ok _) fun _ => .ite
    (fun _ => .ite (fun _ => .ok _) fun _ => .ite (fun _ => beginCommand_completes hc _)
      fun _ => alarmToCmdStart_completes hc _)
    fun _ => .ok _

theorem timeEnd_completes {s : State} (hc : s.CanSend) : Completes (timeEnd s) :=
  .ite (fun _ => (raiseAlarm_completes hc _).bind fun _ _ => .ok _) fun _ => .ok _

theorem timeRule_completes {s : State} (hc : s.CanSend) (b : Byte) (w : Word) : Completes (timeRule s b w) :=
  .ite (fun _ => .ok _) fun _ => .ite (fun _ => alarmToCmdStart_completes hc _) fun _ => .ite (fun _ => .ok _)
    fun _ => .ite (fun _ => .ite (fun _ => timeEnd_completes (s := reservedTested s b) hc) fun _ => .ok _) fun _ => .ok _

theorem cmdStartRule_completes {s : State} (hc : s.CanSend) (b : Byte) (w : Word) : Completes (cmdStartRule s b w) :=
  .ite (fun _ => beginCommand_completes (s := idleCounted s) hc _) fun _ =>
    .ite (fun _ => (raiseAlarm_completes (s := idleCounted s) hc _).bind fun _ _ => .ok _) fun _ => .ok _

theorem cmdLengthCheck_completes {s : State} (hc : s.CanSend) (hk : s.rx.cmdK < s.rx.recs.length) (w : Word) :
    Completes (cmdLengthCheck s w) :=
  .ite (fun _ => (raiseAlarm_completes hc _).bind fun u hu =>
    Completes.bind ⟨_, excise_eq (by rwa [(raiseAlarm_same hu).rx])⟩ fun _ _ => .ok _) fun _ => .ok _

theorem completeCommand_completes {s : State} (hk : s.rx.cmdK < s.rx.recs.length) : Completes (completeCommand s) :=
  .ite (fun _ => Completes.bind ⟨_, recordWrite_eq _ hk⟩ fun _ _ => .ok _) fun _ => .ok _

theorem cmdBody_completes {s : State} (hc : s.CanSend) (hk : s.rx.cmdK < s.rx.recs.length) (b : Byte) :
    Completes (cmdBody s b) := by
  by_cases hin : s.rx.cmdC.toNat ≤ s.rx.cmdLen.toNat + 7
  · by_cases hroom : s.rx.wp < s.cfg.scratchSize
    · rw [cmdBody_stores b hin hroom]
      exact completeCommand_completes (s := bodyStored s b) hk
    · rw [cmdBody_full b hin (Nat.not_lt.mp hroom)]
      exact abortWith_completes hc _
  · rw [cmdBody_pad b hin]
    exact completeCommand_completes hk

theorem cmdRule_completes {s : State} (hc : s.CanSend) (hk : s.rx.cmdK < s.rx.recs.length) (b : Byte) (w : Word) :
    Completes (cmdRule s b w) :=
  .ite (fun _ => cmdLengthCheck_completes (s := cmdCounted s) hc hk w) fun _ =>
    .ite (fun _ => cmdBody_completes (s := cmdCounted s) hc hk b) fun _ => .ok _

/-- Only CMD asks for more than a transport that lets a packet out: a free record slot. -/
theorem stateRule_completes {st : RxState} {s : State} (hc : s.CanSend)
    (hk : st = .cmd → s.rx.cmdK < s.rx.recs.length) (b : Byte) (w : Word) : Completes (stateRule st s b w) := by
  cases st with
  | idle | length => exact lengthRule_completes hc b w
  | timeStart => exact timeStartRule_completes hc b w
  | time => exact timeRule_completes hc b w
  | cmdStart => exact cmdStartRule_completes hc b w
  | cmd => exact cmdRule_completes hc (hk rfl) b w

theorem dispatch_completes {s : State} (hr : s.Ready) (h : StorageInv s.cfg s.rx) : Completes (dispatch s) := by
  obtain ⟨⟨-, -, hsize⟩, hlen, hk, hrecs⟩ := h
  exact ⟨_, dispatch_eq hr (hk.trans_eq hlen.symm) fun r hmem => RecordBelow.mono (hrecs r hmem) hsize⟩

theorem endOfFrame_completes {s : State} (hr : s.Ready) (h : StorageInv s.cfg s.rx) : Completes (endOfFrame s) :=
  Completes.bind (.ite (fun _ => dispatch_completes hr h) fun _ => raiseAlarm_completes (ready_canSend hr) _)
    fun _ _ => .ok _

/-- A free slot for the command in progress. -/
theorem cmd_slot_free {s : State} (h : s.Inv) (hst : s.rx.rxState = .cmd) : s.rx.cmdK < s.rx.recs.length := by
  obtain ⟨-, -, -, hk, -⟩ := h.phase.2.2.2.2.2 hst
  obtain ⟨hlen, -⟩ := h.records
  exact hk.trans_eq hlen.symm

theorem lockedByte_completes {s : State} (h : s.Inv) (hd : s.link.drains = none) (hne : s.rx.rxState ≠ .idle) (b : Byte) :
    Completes (lockedByte (stateRule s.rx.rxState) s b) := by
  have hr : (countByte s b).Ready := ⟨hd, h.table⟩
  have hc := ready_canSend hr
  by_cases hov : s.rx.pos + 1 ≤ s.cfg.maxPacketSize
  · rw [lockedByte_of_no_overflow _ b hov]
    refine (stateRule_completes hc (fun hst => cmd_slot_free (s := s) h hst) b _).bind fun a ha => ?_
    obtain ⟨t, ht, rfl | ⟨u, rfl, hmoved, -, hnext⟩⟩ := stateRule_answer hne ha
    · exact .ok _
    · have hframe := ht.frame.trans (frame_of_moved hmoved)
      have hready : u.Ready := ⟨hframe.drains hr.1, hframe.crcTable.trans hr.2⟩
      have hstorage : StorageInv u.cfg u.rx := by
        rw [hframe.cfg]
        exact ruleNext_storage (rx := s.rx) h.legal rfl (rxInv_of_inv h) hnext
      exact .ite (fun _ => endOfFrame_completes hready hstorage) fun _ => .ok _
  · rw [lockedByte_of_overflow _ b (Nat.not_le.mp hov)]
    exact (raiseAlarm_completes hc _).bind fun _ _ => .ok _

theorem metAdvance_completes {s : State} (hr : s.Ready) : Completes (metAdvance s) :=
  ⟨_, metAdvance_eq_afterTimeAdvance hr.2 (.inr (ready_canSend hr))⟩

theorem idleByte_completes {s : State} (hr : s.Ready) (b : Byte) : Completes (idleByte s b) :=
  .ite (fun _ => metAdvance_completes (s := s.withRx (rxSynced s.cfg)) hr) fun _ => .ok _

theorem toOutcome_next_of_completes {r : Res State} (h : Completes r) : ∃ t, toOutcome r = .next t := by
  obtain ⟨t, rfl⟩ := h
  exact ⟨t, rfl⟩

theorem exec_rxByte_completes {s : State} (h : s.Inv) (hd : s.link.drains = none) (b : Byte) :
    ∃ t, exec (rxByteInstr s.rx.rxState b) s = .next t := by
  by_cases hst : s.rx.rxState = .idle
  · rw [hst]
    change ∃ t, exec (.rxByteIdle b) s = .next t
    rw [exec_rxByteIdle b hst]
    exact toOutcome_next_of_completes (idleByte_completes ⟨hd, h.table⟩ b)
  · rw [exec_rxByte_locked b rfl hst]
    exact toOutcome_next_of_completes (lockedByte_completes h hd hst b)

theorem exec_completes {s : State} {i : Instr} (h : s.Inv) (hd : s.link.drains = none) (hwf : i.WellFormed = true)
    (hst : ∀ st b, i = rxByteInstr st b → s.rx.rxState = st) : ∃ t, exec i s = .next t := by
  have hr : s.Ready := ⟨hd, h.table⟩
  have hbyte : ∀ st b, i = rxByteInstr st b → ∃ t, exec i s = .next t := by
    intro st b hi
    rw [hi, ← hst st b hi]
    exact exec_rxByte_completes h hd b
  cases i with
  | rxByteIdle b => exact hbyte .idle b rfl
  | rxByteLength b => exact hbyte .length b rfl
  | rxByteTimeStart b => exact hbyte .timeStart b rfl
  | rxByteTime b => exact hbyte .time b rfl
  | rxByteCmdStart b => exact hbyte .cmdStart b rfl
  | rxByteCmd b => exact hbyte .cmd b rfl
  | metAdvance => exact toOutcome_next_of_completes (metAdvance_completes hr)
  | dispatch => exact toOutcome_next_of_completes (dispatch_completes hr (rxInv_of_inv h).1)
  | sendStatus | sendEcho opcode args result | sendAlarm code =>
    obtain ⟨t, -, ht, -⟩ := exec_send hr rfl hwf
    exact ⟨t, ht⟩
  | reset | rxReset | buildTable | crcUpdate c b | crcResidueCheck c | seqAdvance | seqReset | hbToggle | pwrToggle =>
    exact ⟨_, rfl⟩

/-- Settles O53: the operation answers, and what it answers meets the invariant. -/
theorem everyOperationCompletesSafely : Obligations.EveryOperationCompletesSafely := by
  intro s i h hd hwf hst
  obtain ⟨t, ht⟩ := exec_completes h hd hwf hst
  rw [ht]
  exact executed_keeps h (exec_next ht)

/-- Settles O54, by induction on the bytes: each step takes the oldest one and keeps what the next step needs. -/
theorem anyInboundStreamIsConsumed : Obligations.AnyInboundStreamIsConsumed := by
  intro bs
  induction bs with
  | nil =>
    intro s h hd hp hin
    exact ⟨s, rfl, hin, h⟩
  | cons b bs ih =>
    intro s h hd hp hin
    have hinv : State.Inv { s with inbound := bs.map PortItem.byte } := inv_congr h rfl rfl rfl rfl rfl
    obtain ⟨u, hu⟩ := exec_rxByte_completes hinv hd b
    have hstep : step s = .next u := (stepConsumesAnInboundByte.1 s b _ hp hin).trans hu
    have hframe := (exec_next hu).machineFrame
    obtain ⟨t, ht, hempty, hend⟩ :=
      ih u (everyStepKeepsTheInvariant s u h hstep) (hframe.drains hd) (hframe.probe.trans hp) hframe.inbound
    exact ⟨t, (run_of_step hstep).trans ht, hempty, hend⟩

/-! ### At reset, and under the defaults -/

/-- Settles O51: a cleared receiver, a zero `sic`, the built table. -/
theorem invariantHoldsAtReset : Obligations.InvariantHoldsAtReset := by
  have hpowerOn : ∀ c : Config, c.Legal → (State.powerOn c).Inv := by
    intro c hlegal
    obtain ⟨⟨hscratch, hrecords⟩, hphase⟩ := rxInv_rxCleared c
    exact ⟨hlegal, rfl, by simp [State.powerOn], sicBelow_zero c, hscratch, hrecords, hphase⟩
  exact ⟨hpowerOn, hpowerOn Config.default (by decide)⟩

/-- Past IDLE the next byte stays below the end of the longest frame. -/
theorem pos_lt_longest_frame {cfg : Config} {rx : Receiver} (h : phaseInv cfg rx) (hst : rx.rxState ≠ .idle) :
    rx.pos + 1 ≤ 6 + cfg.itfLenMax := by
  obtain ⟨-, hlength, htimeStart, htime, hcmdStart, hcmd⟩ := h
  have hframe : lengthInv cfg rx → rx.pos + 1 ≤ 6 + cfg.itfLenMax := by
    rintro ⟨-, hlt, -, hmax⟩
    omega
  cases hs : rx.rxState with
  | idle => exact absurd hs hst
  | length =>
    obtain ⟨-, hpos, -⟩ := hlength hs
    omega
  | timeStart => exact hframe (htimeStart hs).2.1
  | time => exact hframe (htime hs).2.1
  | cmdStart => exact hframe (hcmdStart hs).2.1
  | cmd => exact hframe (hcmd hs).2.1

/-- The bytes stored so far, those of the command in progress included, are fewer than 11 for each command up to it. -/
theorem wp_lt_of_body_byte {cfg : Config} {rx : Receiver} (hlegal : cfg.Legal) (h : commandInv cfg rx)
    (h10 : 10 ≤ rx.cmdC.toNat) (hin : rx.cmdC.toNat + 1 ≤ rx.cmdLen.toNat + 7) : rx.wp < 11 * (rx.cmdK + 1) := by
  obtain ⟨-, -, hmaxArgs, -⟩ := hlegal
  obtain ⟨-, -, hstart, -, hbody⟩ := h
  obtain ⟨-, hmax, -, -, hwp⟩ := hbody (by omega)
  simp only [maxArgs] at *
  omega

/-- Settles O60: the two bounds that the invariant gives, against the two sizes. -/
theorem overflowsUnreachableUnderDefaults : Obligations.OverflowsUnreachableUnderDefaults := by
  refine ⟨fun s h hpacket hscratch => ⟨fun hst => (pos_lt_longest_frame h.phase hst).trans hpacket, ?_⟩, by decide, by decide⟩
  intro hst h10 hin
  obtain ⟨-, -, -, hcmd⟩ := h.phase.2.2.2.2.2 hst
  have hwp := wp_lt_of_body_byte h.legal hcmd h10 hin
  obtain ⟨hk, -⟩ := hcmd
  omega

end Sys2Proof.Proofs.Invariant
end
